-- ==== Sys2Proof/Word.lean ====
section
/-! DEFINITION. The byte, the 32-bit request and response word, and the one piece of plain arithmetic the
rules use: the least nonnegative residue of a difference (00_scope.md R13, R15). -/

namespace Sys2Proof

/-- A byte: every storage cell and every transported datum is one (20_memory.md R85). -/
abbrev Byte := BitVec 8

/-- A request or response word (30_encoding.md R110, R116). -/
abbrev Word := BitVec 32

/-- `(a - b) mod m`, the least nonnegative residue (00_scope.md R15). -/
def subMod (a b m : Nat) : Nat := (a + (m - b % m)) % m

end Sys2Proof
end

