-- ==== Sys2Proof/Syntax.lean ====
section
/-! DEFINITION. The instructions: one constructor per row of spec/opcode_table.json (00_scope.md R2). An
operand is a field the row's rule reads; a field the rule ignores is no operand (30_encoding.md R111). -/

namespace Sys2Proof

/-- The host requests (30_encoding.md R112), the line editor's input actions (R125, R126) and the
peripheral-port events (R131). -/
inductive Instr where
  /-- NOP, 41_transport.md R211. -/
  | nop
  /-- RX_POP, R220. -/
  | rxPop
  /-- TX_SEND d, R221. -/
  | txSend (d : Byte)
  /-- LE_FEED d, 42_line_editor.md R250. -/
  | leFeed (d : Byte)
  /-- POLL, R251. -/
  | poll
  /-- LINE_WR.CLR, 43_dispatch.md R320. -/
  | lineWrClr
  /-- LINE_WR.PUT d, R321; `a` is the sub-operation, 1 for a put and at least 2 for the RANGE case that the
  same rule gives (log 19). -/
  | lineWrPut (a d : Byte)
  /-- EXEC, R337. -/
  | execLine
  /-- TAB, R340. -/
  | tab
  /-- LINE_RD d, R322. -/
  | lineRd (d : Byte)
  /-- TOK_RD d, R350. -/
  | tokRd (d : Byte)
  /-- CMD_STAT, R351. -/
  | cmdStat
  /-- CMD_DONE, R355. -/
  | cmdDone
  /-- STATUS a, R224. -/
  | status (a : Byte)
  /-- HIST_RD a, d, R276. -/
  | histRd (a d : Byte)
  /-- RECONF d, R230. -/
  | reconf (d : Byte)
  /-- ILLEGAL, R212: the whole rejected word. -/
  | illegal (req : Word)
  /-- LE.IGNORE, R260. -/
  | leIgnore (b : Byte)
  /-- LE.ESC_ENTER, R261. -/
  | leEscEnter
  /-- LE.ENTER, R262. -/
  | leEnter
  /-- LE.BACKSPACE, R263: byte 0x08 or 0x7F. -/
  | leBackspace (b : Byte)
  /-- LE.INSERT, R264. -/
  | leInsert (b : Byte)
  /-- LE.OVERFLOW, R265. -/
  | leOverflow (b : Byte)
  /-- LE.ESC_DROP, R266. -/
  | leEscDrop (b : Byte)
  /-- LE.CSI_ENTER, R267. -/
  | leCsiEnter
  /-- LE.HIST_PREV, R268. -/
  | leHistPrev
  /-- LE.HIST_NEXT, R269. -/
  | leHistNext
  /-- LE.CUR_RIGHT, R270. -/
  | leCurRight
  /-- LE.CUR_LEFT, R271. -/
  | leCurLeft
  /-- LE.CSI_DROP, R272. -/
  | leCsiDrop (b : Byte)
  /-- LE.ILLEGAL_ESC_STATE, 30_encoding.md R126. -/
  | leIllegalEscState (b : Byte)
  /-- RX_BYTE(b), 41_transport.md R200. -/
  | rxByte (b : Byte)
  /-- TX_DONE, R203. -/
  | txDone
  deriving DecidableEq, Repr

end Sys2Proof
end

