-- ==== Sys2Proof/WellFormed.lean ====
section
/-! DEFINITION. Which instruction terms the opcode table has a word for: the byte sets of the line-editor
rows, the sub-operation of LINE_WR, and the words that are ILLEGAL. -/

namespace Sys2Proof

/-- REQ[27:24] and REQ[15:8] are the reserved fields (30_encoding.md R110). -/
def reservedSet (req : Word) : Bool :=
  req.extractLsb' 24 4 != 0 || req.extractLsb' 8 8 != 0

/-- The printable range 0x20..0x7E (R125). -/
def printable (b : Byte) : Bool := 0x20 ≤ b.toNat && b.toNat ≤ 0x7E

/-- Every operand value the row admits, and no other. -/
def Instr.wf : Instr → Bool
  | .nop => true
  | .rxPop => true
  | .txSend _ => true
  | .leFeed _ => true
  | .poll => true
  | .lineWrClr => true
  | .lineWrPut a _ => a != 0
  | .execLine => true
  | .tab => true
  | .lineRd _ => true
  | .tokRd _ => true
  | .cmdStat => true
  | .cmdDone => true
  | .status _ => true
  | .histRd _ _ => true
  | .reconf _ => true
  | .illegal req => reservedSet req || req.extractLsb' 28 4 == 0xF
  | .leIgnore b => !printable b && b != 0x08 && b != 0x0D && b != 0x1B && b != 0x7F
  | .leEscEnter => true
  | .leEnter => true
  | .leBackspace b => b == 0x08 || b == 0x7F
  | .leInsert b => printable b
  | .leOverflow b => printable b
  | .leEscDrop b => b != 0x5B
  | .leCsiEnter => true
  | .leHistPrev => true
  | .leHistNext => true
  | .leCurRight => true
  | .leCurLeft => true
  | .leCsiDrop b => !(0x41 ≤ b.toNat && b.toNat ≤ 0x44)
  | .leIllegalEscState _ => true
  | .rxByte _ => true
  | .txDone => true

end Sys2Proof
end

