-- ==== Sys2Proof/Decode.lean ====
section
/-! DEFINITION. The decoders: the request word (30_encoding.md R110 to R114), the line editor's 10-bit word
(R125, R126) and the port events (R131); then the encoder, written from the same tables. -/

namespace Sys2Proof

/-! ## Request words -/

/-- REQ[31:28]. -/
def reqOp (w : Word) : BitVec 4 := w.extractLsb' 28 4

/-- REQ[23:16], operand a. -/
def reqA (w : Word) : Byte := w.extractLsb' 16 8

/-- REQ[7:0], operand d. -/
def reqD (w : Word) : Byte := w.extractLsb' 0 8

/-- The request decoder: the reserved-bit check first (R111), then the op code alone (R112, R114). Total:
what it does not know is the instruction ILLEGAL (41_transport.md R212). -/
def decodeReq (w : Word) : Instr :=
  let a := reqA w
  let d := reqD w
  if reservedSet w then .illegal w
  else if reqOp w = 0x0 then .nop
  else if reqOp w = 0x1 then .rxPop
  else if reqOp w = 0x2 then .txSend d
  else if reqOp w = 0x3 then .leFeed d
  else if reqOp w = 0x4 then .poll
  else if reqOp w = 0x5 then (if a = 0 then .lineWrClr else .lineWrPut a d)
  else if reqOp w = 0x6 then .execLine
  else if reqOp w = 0x7 then .tab
  else if reqOp w = 0x8 then .lineRd d
  else if reqOp w = 0x9 then .tokRd d
  else if reqOp w = 0xA then .cmdStat
  else if reqOp w = 0xB then .cmdDone
  else if reqOp w = 0xC then .status a
  else if reqOp w = 0xD then .histRd a d
  else if reqOp w = 0xE then .reconf d
  else .illegal w

/-! ## The line editor's word -/

/-- The editor's actions (R119), and the escape state that has none (R126). -/
inductive LeAct where
  | ignore
  | escEnter
  | enter
  | backspace
  | insert
  | overflow
  | escDrop
  | csiEnter
  | histPrev
  | histNext
  | curRight
  | curLeft
  | csiDrop
  | illegalEscState
  deriving DecidableEq, Repr

/-- L[9:8], the escape state before the byte (R125). -/
def leEscOf (L : BitVec 10) : BitVec 2 := L.extractLsb' 8 2

/-- L[7:0], the input byte (R125). -/
def leByteOf (L : BitVec 10) : Byte := L.extractLsb' 0 8

/-- The transition table of R125. `full` is the guard `LE.len = MAX_LEN-1` on which INSERT and OVERFLOW
split. -/
def decodeLeAct (full : Bool) (L : BitVec 10) : LeAct :=
  let b := leByteOf L
  if leEscOf L = 0 then
    if b = 0x1B then .escEnter
    else if b = 0x0D then .enter
    else if b = 0x7F ∨ b = 0x08 then .backspace
    else if printable b then (if full then .overflow else .insert)
    else .ignore
  else if leEscOf L = 1 then
    if b = 0x5B then .csiEnter else .escDrop
  else if leEscOf L = 2 then
    if b = 0x41 then .histPrev
    else if b = 0x42 then .histNext
    else if b = 0x43 then .curRight
    else if b = 0x44 then .curLeft
    else .csiDrop
  else .illegalEscState

/-- The table row an action is, with its input byte. -/
def LeAct.toInstr (b : Byte) : LeAct → Instr
  | .ignore => .leIgnore b
  | .escEnter => .leEscEnter
  | .enter => .leEnter
  | .backspace => .leBackspace b
  | .insert => .leInsert b
  | .overflow => .leOverflow b
  | .escDrop => .leEscDrop b
  | .csiEnter => .leCsiEnter
  | .histPrev => .leHistPrev
  | .histNext => .leHistNext
  | .curRight => .leCurRight
  | .curLeft => .leCurLeft
  | .csiDrop => .leCsiDrop b
  | .illegalEscState => .leIllegalEscState b

/-- The line editor's decoder. -/
def decodeLe (full : Bool) (L : BitVec 10) : Instr := (decodeLeAct full L).toInstr (leByteOf L)

/-! ## All formats -/

/-- The four word formats of spec/opcode_table.json. -/
inductive Format where
  /-- REQ32, the request word. -/
  | req32
  /-- LE10, the line editor's word. -/
  | le10
  /-- RXPORT: bit 8 `rx_valid`, bits 7..0 `rx_byte`. -/
  | rxPort
  /-- TXPORT: bit 0 `tx_done`. -/
  | txPort
  deriving DecidableEq, Repr

/-- How many bits a word of the format has. -/
def Format.width : Format → Nat
  | .req32 => 32
  | .le10 => 10
  | .rxPort => 9
  | .txPort => 1

/-- Why a word is no instruction. -/
inductive Reject where
  /-- It has a bit above the format's width. -/
  | tooWide
  /-- RXPORT with `rx_valid = 0`: a tick without a byte. -/
  | noRxByte
  /-- TXPORT with `tx_done = 0`: a tick without TX_DONE. -/
  | noTxDone
  deriving DecidableEq, Repr

/-- What a decoder answers: an instruction, or why there is none. -/
inductive Decoded where
  | instr (i : Instr)
  | reject (r : Reject)
  deriving DecidableEq, Repr

/-- The RX port's decoder (R131). -/
def decodeRx (p : BitVec 9) : Decoded :=
  if p.getLsbD 8 then .instr (.rxByte (p.extractLsb' 0 8)) else .reject .noRxByte

/-- The TX port's decoder (R131). -/
def decodeTx (p : BitVec 1) : Decoded :=
  if p = 1 then .instr .txDone else .reject .noTxDone

/-- The decoder of every format, total on every number; `full` is the guard of R125. -/
def decode (f : Format) (full : Bool) (w : Nat) : Decoded :=
  if 2 ^ f.width ≤ w then .reject .tooWide
  else
    match f with
    | .req32 => .instr (decodeReq (BitVec.ofNat 32 w))
    | .le10 => .instr (decodeLe full (BitVec.ofNat 10 w))
    | .rxPort => decodeRx (BitVec.ofNat 9 w)
    | .txPort => decodeTx (BitVec.ofNat 1 w)

/-- The format of a table row of `nbits` bits, in whole bytes or exactly. Sixteen bits are read as LE10
(log 13). -/
def formatOfBits (nbits : Nat) : Option Format :=
  if nbits = 32 then some .req32
  else if nbits = 16 ∨ nbits = 10 then some .le10
  else if nbits = 9 then some .rxPort
  else if nbits = 8 ∨ nbits = 1 then some .txPort
  else none

/-- The instruction the decoder reads from a table row's word. The words are parallel, so no byte order
enters (20_memory.md R85). -/
def decodeTableWord (nbits w : Nat) : Option Instr :=
  match formatOfBits nbits with
  | none => none
  | some f =>
    match decode f false w with
    | .instr i => some i
    | .reject _ => none

/-! ## The encoder -/

/-- A request word from its fields, the reserved fields zero (R110). -/
def encodeReq (op : BitVec 4) (a d : Byte) : Word := op ++ (0 : BitVec 4) ++ a ++ (0 : BitVec 8) ++ d

/-- The line editor's word `(LE.esc, byte)` (R125). -/
def encodeLe (esc : BitVec 2) (b : Byte) : BitVec 10 := esc ++ b

/-- The format of an instruction's row. -/
def Instr.format : Instr → Format
  | .nop | .rxPop | .txSend _ | .leFeed _ | .poll | .lineWrClr | .lineWrPut _ _ | .execLine | .tab
  | .lineRd _ | .tokRd _ | .cmdStat | .cmdDone | .status _ | .histRd _ _ | .reconf _ | .illegal _ => .req32
  | .leIgnore _ | .leEscEnter | .leEnter | .leBackspace _ | .leInsert _ | .leOverflow _ | .leEscDrop _
  | .leCsiEnter | .leHistPrev | .leHistNext | .leCurRight | .leCurLeft | .leCsiDrop _
  | .leIllegalEscState _ => .le10
  | .rxByte _ => .rxPort
  | .txDone => .txPort

/-- The guard under which a row is selected: only OVERFLOW needs the line full (R125). -/
def Instr.needsFull : Instr → Bool
  | .leOverflow _ => true
  | .nop | .rxPop | .txSend _ | .leFeed _ | .poll | .lineWrClr | .lineWrPut _ _ | .execLine | .tab
  | .lineRd _ | .tokRd _ | .cmdStat | .cmdDone | .status _ | .histRd _ _ | .reconf _ | .illegal _
  | .leIgnore _ | .leEscEnter | .leEnter | .leBackspace _ | .leInsert _ | .leEscDrop _ | .leCsiEnter
  | .leHistPrev | .leHistNext | .leCurRight | .leCurLeft | .leCsiDrop _ | .leIllegalEscState _
  | .rxByte _ | .txDone => false

/-- The word of an instruction, ignored fields zero. -/
def encode : Instr → Nat
  | .nop => (encodeReq 0x0 0 0).toNat
  | .rxPop => (encodeReq 0x1 0 0).toNat
  | .txSend d => (encodeReq 0x2 0 d).toNat
  | .leFeed d => (encodeReq 0x3 0 d).toNat
  | .poll => (encodeReq 0x4 0 0).toNat
  | .lineWrClr => (encodeReq 0x5 0 0).toNat
  | .lineWrPut a d => (encodeReq 0x5 a d).toNat
  | .execLine => (encodeReq 0x6 0 0).toNat
  | .tab => (encodeReq 0x7 0 0).toNat
  | .lineRd d => (encodeReq 0x8 0 d).toNat
  | .tokRd d => (encodeReq 0x9 0 d).toNat
  | .cmdStat => (encodeReq 0xA 0 0).toNat
  | .cmdDone => (encodeReq 0xB 0 0).toNat
  | .status a => (encodeReq 0xC a 0).toNat
  | .histRd a d => (encodeReq 0xD a d).toNat
  | .reconf d => (encodeReq 0xE 0 d).toNat
  | .illegal req => req.toNat
  | .leIgnore b => (encodeLe 0 b).toNat
  | .leEscEnter => (encodeLe 0 0x1B).toNat
  | .leEnter => (encodeLe 0 0x0D).toNat
  | .leBackspace b => (encodeLe 0 b).toNat
  | .leInsert b => (encodeLe 0 b).toNat
  | .leOverflow b => (encodeLe 0 b).toNat
  | .leEscDrop b => (encodeLe 1 b).toNat
  | .leCsiEnter => (encodeLe 1 0x5B).toNat
  | .leHistPrev => (encodeLe 2 0x41).toNat
  | .leHistNext => (encodeLe 2 0x42).toNat
  | .leCurRight => (encodeLe 2 0x43).toNat
  | .leCurLeft => (encodeLe 2 0x44).toNat
  | .leCsiDrop b => (encodeLe 2 b).toNat
  | .leIllegalEscState b => (encodeLe 3 b).toNat
  | .rxByte b => ((1 : BitVec 1) ++ b).toNat
  | .txDone => 1

end Sys2Proof
end

