-- ==== Sys2Proof/Config.lean ====
section
/-! DEFINITION. The implementation parameters of 00_scope.md R9, the vector configuration of
95_test_vectors.md, and the values the spec leaves free (00_scope.md R18), each an opaque constant. -/

namespace Sys2Proof

/-- The two size parameters of one FIFO (00_scope.md R9). -/
structure FifoCfg where
  /-- `AW_F`: log2 of the capacity. -/
  aw : Nat
  /-- `PW_F`: pointer width in bits. -/
  pw : Nat
  deriving DecidableEq, Repr

/-- `N_F = 2^AW_F`, the capacity in bytes (00_scope.md R9, 40_fifo_cdc.md R182). -/
def FifoCfg.cap (c : FifoCfg) : Nat := 2 ^ c.aw

/-- `2^PW_F`, what the pointers wrap at (00_scope.md R25). -/
def FifoCfg.modulus (c : FifoCfg) : Nat := 2 ^ c.pw

/-- The configuration of 00_scope.md R9. -/
structure Config where
  /-- `AW_RX`, `PW_RX`. -/
  rx : FifoCfg
  /-- `AW_TX`, `PW_TX`. -/
  tx : FifoCfg
  /-- `S`, synchronizer depth. -/
  depth : Nat
  /-- `MAX_LEN`: a line holds at most `MAX_LEN - 1` bytes. -/
  maxLen : Nat
  /-- `H`, history entries. -/
  hist : Nat
  /-- `K`, tokens kept. -/
  maxTok : Nat
  /-- `CMD_TABLE`, the command names in table order. -/
  cmdTable : List (List Byte)
  /-- `PROMPT`. -/
  prompt : List Byte
  /-- `NEWLINE`. -/
  newline : List Byte
  /-- `MSG_UNKNOWN`. -/
  msgUnknown : List Byte
  /-- `MSG_OVERFLOW`. -/
  msgOverflow : List Byte
  /-- `BAUD_VALID`, held as the list of the rate codes it refuses (DESIGN CHOICE, log 7: safe). -/
  baudRefused : List Byte
  /-- `BAUD_RESET`. -/
  baudReset : Byte
  deriving DecidableEq, Repr

/-- The most bytes a line holds, `MAX_LEN - 1`. -/
def Config.lineCap (c : Config) : Nat := c.maxLen - 1

/-- The vector configuration of 95_test_vectors.md: the column "value" of 00_scope.md R9. -/
def Config.vectors : Config where
  rx := { aw := 2, pw := 3 }
  tx := { aw := 6, pw := 7 }
  depth := 2
  maxLen := 16
  hist := 4
  maxTok := 4
  cmdTable := [
    [0x68, 0x65, 0x6C, 0x70],
    [0x63, 0x6C, 0x65, 0x61, 0x72],
    [0x68, 0x69, 0x73, 0x74, 0x6F, 0x72, 0x79],
    [0x76, 0x65, 0x72, 0x73, 0x69, 0x6F, 0x6E],
    [0x6C, 0x65, 0x64]]
  prompt := [0x3E, 0x20]
  newline := [0x0D, 0x0A]
  msgUnknown := [0x3F, 0x0D, 0x0A]
  msgOverflow := [0x21, 0x0D, 0x0A]
  baudRefused := [0x00]
  baudReset := 0x01

/-- The three agents, one per clock domain (60_exceptions.md R398). -/
inductive Agent where
  | core
  | rxDom
  | txDom
  deriving DecidableEq, Repr, Inhabited

/-- Free value: `draw_byte()` of 40_fifo_cdc.md R172, the byte a raced pop returns. The argument counts
draws (log 3). -/
opaque Config.freeByte : Nat → Byte

/-- Free value: `draw_bool()` of 41_transport.md R230, the physical layer's init result (log 3). -/
opaque Config.freeInitOk : Nat → Bool

/-- Free value: the action code LE_FEED or POLL reports in escape state 3, for which 30_encoding.md R126
gives no action (DESIGN CHOICE, log 4). It keeps the bound of R119, that codes 13 to 15 are never returned. -/
opaque Config.freeAction : Nat → Fin 13

/-- Free value: which domain the scheduler ticks when the environment offers nothing more
(00_scope.md R21: any agent may tick at any step; log 2). -/
opaque Config.freeAgent : Nat → Agent

end Sys2Proof
end

