-- ==== Sys2Proof/Machine/State.lean ====
section
/-! DEFINITION. The state of the block as plain data: every field of 10_state.md R32 and R60, the outputs the
rules name, the environment's offers, and the state after reset (70_reset_and_hazards.md R410, R411). -/

namespace Sys2Proof.Machine

/-- The model faults of 60_exceptions.md R387. No step answers `Host.Outcome.fault`: by R386 a raised fault
is recorded in `G.fault` and the run goes on, so these names are what that ghost field holds (log 1). -/
inductive Fault where
  /-- Raised by a push on either FIFO at write-side lead `2^PW - 1` (40_fifo_cdc.md R151). Unsafe for a claim
  that does not assume `G.fault = none`: the model goes on where the spec gives no meaning. -/
  | lapOverrun
  /-- Raised by the line editor's step in escape state 3 (30_encoding.md R126). Unsafe in the same way. -/
  | illegalEscState
  deriving DecidableEq, Repr

/-- What the model refuses. -/
inductive Refusal where
  /-- An instruction without a meaning, by its mnemonic. Safe. No arm of `exec` uses it. -/
  | notModelled (mnemonic : String)
  /-- Raised by the reset operation for a configuration outside 00_scope.md R9 (60_exceptions.md R390).
  Safe. -/
  | configRefused
  deriving DecidableEq, Repr

/-- One clock tick of one agent with its environment inputs (00_scope.md R22). -/
inductive Tick where
  /-- A Core tick with the host's request word, if any. -/
  | core (req : Option Word)
  /-- An RxDom tick with the received byte, if `rx_valid = 1`. -/
  | rx (byte : Option Byte)
  /-- A TxDom tick with `tx_done`. -/
  | tx (done : Bool)
  deriving DecidableEq, Repr

/-- A byte storage of 20_memory.md R80: (index, byte) pairs with indices strictly rising and no entry equal
to what an unlisted cell reads as. -/
abbrev Memory := List Host.Cell

/-- What a cell that nothing has written reads as. The spec leaves it unspecified (70_reset_and_hazards.md
R411) and no rule reads one (DESIGN CHOICE, log 6: unsafe). -/
def Memory.unlisted : Byte := 0

/-- The ghost fields of one FIFO (10_state.md R60). -/
structure FifoGhost where
  /-- `G.F.wabs`, pushes so far. -/
  wabs : Nat
  /-- `G.F.rabs`, bytes the read pointer has passed. -/
  rabs : Nat
  /-- `G.F.tag`: for each written cell the `wabs` of the push that last wrote it; an unlisted cell is at
  bottom. Indices strictly rising. -/
  tag : List (Nat × Nat)
  deriving DecidableEq, Repr

/-- One FIFO (10_state.md R33 to R40). A pointer is a counter below `2^PW`; a published or synchronized
copy holds its gray code (log 14). A synchronizer is listed stage 1 first. -/
structure Fifo where
  /-- `F.mem`. -/
  mem : Memory
  /-- `F.wptr`. -/
  wptr : Nat
  /-- `F.wpub`, gray. -/
  wpub : Nat
  /-- `F.rsync[1..S]`, gray. -/
  rsync : List Nat
  /-- `F.lap_err`. -/
  lapErr : Bool
  /-- `F.rptr`. -/
  rptr : Nat
  /-- `F.rpub`, gray. -/
  rpub : Nat
  /-- `F.wsync[1..S]`, gray. -/
  wsync : List Nat
  /-- `G.F`. -/
  ghost : FifoGhost
  deriving DecidableEq, Repr

/-- The transmit engine (10_state.md R42 to R45). -/
structure TxEngine where
  /-- `TE.busy`. -/
  busy : Bool
  /-- `TE.inflight`. -/
  inflight : Byte
  /-- `TE.tx_en`. -/
  txEn : Bool
  /-- `TE.en_sync[1..S]`. -/
  enSync : List Bool
  /-- `TE.busy_sync[1..S]`. -/
  busySync : List Bool
  deriving DecidableEq, Repr

/-- The line editor (10_state.md R46 to R48). -/
structure LineEditor where
  /-- `LE.esc`: 0 Normal, 1 Escape, 2 EscapeBracket (30_encoding.md R127). -/
  esc : BitVec 2
  /-- `LE.buf`. -/
  buf : Memory
  /-- `LE.len`. -/
  len : Nat
  /-- `LE.cur`. -/
  cur : Nat
  /-- `LE.hist[j]`, slot 0 first. -/
  hist : List Memory
  /-- `LE.hlen[j]`, slot 0 first. -/
  hlen : List Nat
  /-- `LE.hw`. -/
  hw : Nat
  /-- `LE.hcount`. -/
  hcount : Nat
  /-- `LE.hdepth`. -/
  hdepth : Nat
  deriving DecidableEq, Repr

/-- The dispatcher (10_state.md R49 to R51). -/
structure Dispatcher where
  /-- `DP.dline`. -/
  dline : Memory
  /-- `DP.dlen`. -/
  dlen : Nat
  /-- `DP.argc`. -/
  argc : Nat
  /-- `DP.tok_start[k]`, k = 0 first. -/
  tokStart : List Nat
  /-- `DP.tok_len[k]`, k = 0 first. -/
  tokLen : List Nat
  /-- `DP.pending`. -/
  pending : Bool
  /-- `DP.cmd_index`. -/
  cmdIndex : Nat
  /-- `DP.from_le`. -/
  fromLe : Bool
  deriving DecidableEq, Repr

/-- One hand-off as `G.handoffs` logs it (43_dispatch.md R336). -/
structure Handoff where
  /-- The table index. -/
  index : Nat
  /-- `DP.argc`. -/
  argc : Nat
  /-- The tokens' bytes. -/
  tokens : List (List Byte)
  deriving DecidableEq, Repr

/-- The ghost fields that are not one FIFO's (10_state.md R60), and the model's own log of response words
(log 9). -/
structure Ghost where
  /-- `G.race`. -/
  race : Bool
  /-- `G.txlog`, oldest first. -/
  txlog : List Byte
  /-- `G.handoffs`, oldest first. -/
  handoffs : List Handoff
  /-- `G.fault`. -/
  fault : Option Fault
  /-- Every response word, oldest first: an observation of 00_scope.md R24. -/
  rsplog : List Word
  deriving DecidableEq, Repr

/-- The state of the block. -/
structure State where
  /-- The configuration, which no step changes (00_scope.md R9; log 5). -/
  cfg : Config
  /-- `RX`. -/
  rx : Fifo
  /-- `TX`. -/
  tx : Fifo
  /-- `TE`. -/
  te : TxEngine
  /-- `RX.lap_sync[1..S]`. -/
  lapSync : List Bool
  /-- `CFG.baud`. -/
  baud : Byte
  /-- `LE`. -/
  le : LineEditor
  /-- `DP`. -/
  dp : Dispatcher
  /-- `G`, but for `G.F`. -/
  g : Ghost
  /-- RSP of the latest Core tick, none if it carried no request (30_encoding.md R116). -/
  rsp : Option Word
  /-- `tx_start` with `tx_byte` in the latest TxDom tick (30_encoding.md R131). -/
  txStart : Option Byte
  /-- The model's own: the ticks the environment offers, the next one first (log 2). -/
  env : List Tick
  /-- The model's own: how many free values have been drawn (log 3). -/
  draws : Nat
  deriving DecidableEq, Repr

/-- A FIFO after reset (40_fifo_cdc.md R184); its cells are unspecified. -/
def Fifo.reset (depth : Nat) : Fifo where
  mem := []
  wptr := 0
  wpub := 0
  rsync := List.replicate depth 0
  lapErr := false
  rptr := 0
  rpub := 0
  wsync := List.replicate depth 0
  ghost := { wabs := 0, rabs := 0, tag := [] }

/-- The state after reset under a configuration (70_reset_and_hazards.md R410, R411). -/
def State.resetWith (c : Config) : State where
  cfg := c
  rx := Fifo.reset c.depth
  tx := Fifo.reset c.depth
  te := {
    busy := false
    inflight := 0
    txEn := false
    enSync := List.replicate c.depth false
    busySync := List.replicate c.depth false }
  lapSync := List.replicate c.depth false
  baud := c.baudReset
  le := {
    esc := 0
    buf := []
    len := 0
    cur := 0
    hist := List.replicate c.hist []
    hlen := List.replicate c.hist 0
    hw := 0
    hcount := 0
    hdepth := 0 }
  dp := {
    dline := []
    dlen := 0
    argc := 0
    tokStart := List.replicate c.maxTok 0
    tokLen := List.replicate c.maxTok 0
    pending := false
    cmdIndex := 0
    fromLe := false }
  g := { race := false, txlog := [], handoffs := [], fault := none, rsplog := [] }
  rsp := none
  txStart := none
  env := []
  draws := 0

/-- The machine right after reset, under the vector configuration (log 5). -/
def State.reset : State := State.resetWith Config.vectors

end Sys2Proof.Machine
end

