-- ==== Sys2Proof/Machine/Codes.lean ====
section
/-! DEFINITION. The codes of the response word (30_encoding.md R117, R119 to R121) and the packing of its
payload (R118). -/

namespace Sys2Proof.Machine

/-- The status of a response (R117). -/
inductive Status where
  | ok
  | empty
  | busy
  | range
  | illegal
  | fail
  | full
  deriving DecidableEq, Repr

/-- RSP[31:28] (R117). -/
def statusCode : Status → BitVec 4
  | .ok => 0
  | .empty => 1
  | .busy => 2
  | .range => 3
  | .illegal => 4
  | .fail => 5
  | .full => 6

/-- The action code of R119; escape state 3 has no action and so no code. -/
def actionCode : LeAct → Option (BitVec 4)
  | .ignore => some 0
  | .escEnter => some 1
  | .enter => some 2
  | .backspace => some 3
  | .insert => some 4
  | .overflow => some 5
  | .escDrop => some 6
  | .csiEnter => some 7
  | .histPrev => some 8
  | .histNext => some 9
  | .curRight => some 10
  | .curLeft => some 11
  | .csiDrop => some 12
  | .illegalEscState => none

/-- The outcome of EXECUTE (R120). -/
inductive ExecOut where
  | noop
  | unknown
  | dispatched
  deriving DecidableEq, Repr

/-- R120. -/
def execCode : ExecOut → BitVec 4
  | .noop => 0
  | .unknown => 1
  | .dispatched => 2

/-- The result of COMPLETE (R121). -/
inductive TabOut where
  | noMatch
  | singleMatch
  | helpShown
  | multipleMatches
  deriving DecidableEq, Repr

/-- R121. -/
def tabCode : TabOut → BitVec 4
  | .noMatch => 0
  | .singleMatch => 1
  | .helpShown => 2
  | .multipleMatches => 3

/-- An 8-bit payload field. -/
def byteField (n : Nat) : Byte := BitVec.ofNat 8 n

/-- `zext_28` of a byte (00_scope.md R13). -/
def zext28 (b : Byte) : BitVec 28 := (0 : BitVec 20) ++ b

/-- Payload {[23:16], [15:8], [7:0]}. -/
def payload3 (x y z : Byte) : BitVec 28 := (0 : BitVec 4) ++ x ++ y ++ z

/-- Payload {[15:8], [7:0]}. -/
def payload2 (y z : Byte) : BitVec 28 := payload3 0 y z

/-- Payload {code at [27:24], [15:8], [7:0]} of EXEC and TAB (R118). -/
def payloadCode (code : BitVec 4) (y z : Byte) : BitVec 28 := code ++ (0 : BitVec 8) ++ y ++ z

/-- Payload {act at [27:24], LE.esc at [17:16], byte at [7:0]} of LE_FEED and POLL (R118). -/
def payloadAct (act : BitVec 4) (esc : BitVec 2) (b : Byte) : BitVec 28 :=
  act ++ (0 : BitVec 6) ++ esc ++ (0 : BitVec 8) ++ b

/-- RSP = {status, payload} (R116). -/
def responseWord (st : Status) (p : BitVec 28) : Word := statusCode st ++ p

end Sys2Proof.Machine
end

