-- ==== Sys2Proof/Machine/Ops.lean ====
section
/-! DEFINITION. The shared operations: the byte storages (20_memory.md), gray code (00_scope.md R20), the
FIFO's push, pop, publish and synchronize (40_fifo_cdc.md), raising a model fault (60_exceptions.md R386),
`emit` (00_scope.md R19), and answering a request (30_encoding.md R116). -/

namespace Sys2Proof.Machine

/-! ## Keyed lists -/

/-- The entry at key `a`. -/
def lookupKey {α : Type} : List (Nat × α) → Nat → Option α
  | [], _ => none
  | (k, v) :: rest, a => if k = a then some v else lookupKey rest a

/-- The list with `v` at key `a`, keys kept rising. -/
def insertKey {α : Type} : List (Nat × α) → Nat → α → List (Nat × α)
  | [], a, v => [(a, v)]
  | (k, w) :: rest, a, v =>
    if a < k then (a, v) :: (k, w) :: rest
    else if a = k then (a, v) :: rest
    else (k, w) :: insertKey rest a v

/-- The list without the key `a`. -/
def eraseKey {α : Type} : List (Nat × α) → Nat → List (Nat × α)
  | [], _ => []
  | (k, w) :: rest, a => if k = a then eraseKey rest a else (k, w) :: eraseKey rest a

/-! ## Byte storages -/

/-- The canonical form: indices strictly rising, no entry equal to an unlisted cell. -/
abbrev Memory.wf (m : Memory) : Prop :=
  m.Pairwise (fun x y => x.1 < y.1) ∧ ∀ c ∈ m, c.2 ≠ Memory.unlisted

/-- `MemRead(m, i, 1)` (00_scope.md R17). -/
def Memory.read (m : Memory) (i : Nat) : Byte := (lookupKey m i).getD Memory.unlisted

/-- `MemWrite(m, i, 1, v)` (00_scope.md R17). -/
def Memory.write (m : Memory) (i : Nat) (v : Byte) : Memory :=
  if v = Memory.unlisted then eraseKey m i else insertKey m i v

/-- `m[i..i+n)` (00_scope.md R14). -/
def Memory.slice (m : Memory) (i n : Nat) : List Byte := (List.range n).map fun k => m.read (i + k)

/-- `m[i..i+len(s)) <- s`. -/
def Memory.writeBytes (m : Memory) (i : Nat) : List Byte → Memory
  | [] => m
  | b :: rest => (m.write i b).writeBytes (i + 1) rest

/-! ## Gray code and crossings -/

/-- `gray(b) = b XOR (b >> 1)` (00_scope.md R20). -/
def gray (b : Nat) : Nat := b ^^^ (b >>> 1)

/-- `bin(g)` over `w` bits: bit i is the XOR of the bits of `g` from i up (00_scope.md R20). -/
def bin : Nat → Nat → Nat
  | 0, _ => 0
  | w + 1, g => g ^^^ bin w (g >>> 1)

/-- PUBLISH(p, pub) (40_fifo_cdc.md R160). -/
def publish (c : FifoCfg) (p pub : Nat) : Nat :=
  if bin c.pw pub = p then pub else gray ((bin c.pw pub + 1) % c.modulus)

/-- SYNC(sync[1..S], src) (40_fifo_cdc.md R161), stage 1 first. -/
def syncShift {α : Type} (src : α) (chain : List α) : List α := (src :: chain).dropLast

/-- Stage S of a pointer synchronizer. -/
def stagePtr (chain : List Nat) : Nat := chain.getLastD 0

/-- Stage S of a one-bit synchronizer. -/
def stageBit (chain : List Bool) : Bool := chain.getLastD false

/-! ## The FIFO -/

/-- The write side's view of the lead, `Lw` (40_fifo_cdc.md R150, R180). -/
def Fifo.leadW (c : FifoCfg) (f : Fifo) : Nat := subMod f.wptr (bin c.pw (stagePtr f.rsync)) c.modulus

/-- The read side's view of the lead, `d` (40_fifo_cdc.md R170, R181). -/
def Fifo.leadR (c : FifoCfg) (f : Fifo) : Nat := subMod (bin c.pw (stagePtr f.wsync)) f.rptr c.modulus

/-- `hw_push` (40_fifo_cdc.md R150). -/
def Fifo.hwPush (c : FifoCfg) (b : Byte) (f : Fifo) : Fifo :=
  { f with
    mem := f.mem.write (f.wptr % c.cap) b
    wptr := (f.wptr + 1) % c.modulus
    ghost := { f.ghost with
      wabs := f.ghost.wabs + 1
      tag := insertKey f.ghost.tag (f.wptr % c.cap) f.ghost.wabs } }

/-- Whether a push now is a lap overrun (40_fifo_cdc.md R151). -/
def Fifo.laps (c : FifoCfg) (f : Fifo) : Bool := f.leadW c == c.modulus - 1

/-- What PUSH does to the FIFO: a lap sets the sticky flag, and the byte is written in either case
(40_fifo_cdc.md R150, R151). -/
def Fifo.push (c : FifoCfg) (b : Byte) (f : Fifo) : Fifo :=
  Fifo.hwPush c b { f with lapErr := f.lapErr || f.laps c }

/-- Discard of overwritten bytes (40_fifo_cdc.md R171). -/
def Fifo.discard (c : FifoCfg) (f : Fifo) : Fifo :=
  if c.cap < f.leadR c then
    { f with
      rptr := subMod (bin c.pw (stagePtr f.wsync)) c.cap c.modulus
      ghost := { f.ghost with rabs := f.ghost.rabs + (f.leadR c - c.cap) } }
  else f

/-- Whether the cell under the read pointer has been overwritten since its push (40_fifo_cdc.md R172). -/
def Fifo.overwritten (c : FifoCfg) (f : Fifo) : Bool :=
  lookupKey f.ghost.tag (f.rptr % c.cap) != some f.ghost.rabs

/-- The read pointer passes one byte. -/
def Fifo.advance (c : FifoCfg) (f : Fifo) : Fifo :=
  { f with
    rptr := (f.rptr + 1) % c.modulus
    ghost := { f.ghost with rabs := f.ghost.rabs + 1 } }

/-- What POP returns: the byte, the FIFO after, and whether the byte was drawn. -/
structure PopResult where
  byte : Option Byte
  fifo : Fifo
  raced : Bool
  deriving DecidableEq, Repr

/-- POP(F) (40_fifo_cdc.md R170); `draw` is the free value an overwritten cell returns. -/
def Fifo.pop (c : FifoCfg) (draw : Byte) (f : Fifo) : PopResult :=
  if f.leadR c = 0 then { byte := none, fifo := f, raced := false }
  else
    let g := f.discard c
    if g.overwritten c then { byte := some draw, fifo := g.advance c, raced := true }
    else { byte := some (g.mem.read (g.rptr % c.cap)), fifo := g.advance c, raced := false }

/-! ## Operations over the state -/

/-- `raise Fault(x)`: the first fault raised is recorded, and the step's other effects still happen
(60_exceptions.md R386). This is the block's only exceptional entry; there is no trap and no return
(R380, R393, R394). -/
def raise (x : Fault) (s : State) : State := { s with g.fault := s.g.fault.or (some x) }

/-- PUSH(RX, b) in RxDom (40_fifo_cdc.md R150). -/
def pushRx (b : Byte) (s : State) : State :=
  let t := { s with rx := s.rx.push s.cfg.rx b }
  if s.rx.laps s.cfg.rx then raise .lapOverrun t else t

/-- PUSH(TX, b) in Core (40_fifo_cdc.md R150). -/
def pushTx (b : Byte) (s : State) : State :=
  let t := { s with tx := s.tx.push s.cfg.tx b }
  if s.tx.laps s.cfg.tx then raise .lapOverrun t else t

/-- One byte of `emit`: the push, then the transmit enable (00_scope.md R19). -/
def emitByte (b : Byte) (s : State) : State := { pushTx b s with te.txEn := true }

/-- `emit(bytes)` (00_scope.md R19). -/
def emit : List Byte → State → State
  | [], s => s
  | b :: rest, s => emit rest (emitByte b s)

/-- A drawn byte counts as one draw and sets the ghost race bit (40_fifo_cdc.md R172). -/
def noteRace (raced : Bool) (s : State) : State :=
  if raced then { s with g.race := true, draws := s.draws + 1 } else s

/-- POP(RX) in Core (40_fifo_cdc.md R170). -/
def popRx (s : State) : Option Byte × State :=
  let r := s.rx.pop s.cfg.rx (Config.freeByte s.draws)
  (r.byte, noteRace r.raced { s with rx := r.fifo })

/-- POP(TX) in TxDom (40_fifo_cdc.md R170). -/
def popTx (s : State) : Option Byte × State :=
  let r := s.tx.pop s.cfg.tx (Config.freeByte s.draws)
  (r.byte, noteRace r.raced { s with tx := r.fifo })

/-- `respond(st, payload)` (00_scope.md R18, 30_encoding.md R116). -/
def respond (st : Status) (p : BitVec 28) (s : State) : State :=
  { s with
    rsp := some (responseWord st p)
    g.rsplog := s.g.rsplog ++ [responseWord st p] }

end Sys2Proof.Machine
end

