-- ==== Sys2Proof/Machine/Flags.lean ====
section
/-! DEFINITION. The flags and counts the block computes: each side's view of a FIFO (40_fifo_cdc.md R180,
R181), the abstraction to the source's fields (10_state.md R41), the editor's full flag (30_encoding.md
R125), and the STATUS payloads (R122). -/

namespace Sys2Proof.Machine

/-! ## Write-side and read-side views -/

/-- `count_w` (R180). -/
def Fifo.countW (c : FifoCfg) (f : Fifo) : Nat := min c.cap (f.leadW c)

/-- `full_w` (R180). -/
def Fifo.fullW (c : FifoCfg) (f : Fifo) : Bool := decide (c.cap ≤ f.leadW c)

/-- `empty_w` (R180). -/
def Fifo.emptyW (c : FifoCfg) (f : Fifo) : Bool := f.leadW c == 0

/-- `count_r` (R181). -/
def Fifo.countR (c : FifoCfg) (f : Fifo) : Nat := min c.cap (f.leadR c)

/-- `full_r` (R181). -/
def Fifo.fullR (c : FifoCfg) (f : Fifo) : Bool := decide (c.cap ≤ f.leadR c)

/-- `empty_r` (R181). -/
def Fifo.emptyR (c : FifoCfg) (f : Fifo) : Bool := f.leadR c == 0

/-! ## The source's fields (10_state.md R41) -/

/-- `abs_count(F)`. -/
def Fifo.absCount (c : FifoCfg) (f : Fifo) : Nat := min c.cap (f.ghost.wabs - f.ghost.rabs)

/-- `head(F)`. -/
def Fifo.absHead (c : FifoCfg) (f : Fifo) : Nat := f.wptr % c.cap

/-- `tail(F)`. -/
def Fifo.absTail (c : FifoCfg) (f : Fifo) : Nat := (f.ghost.wabs - f.absCount c) % c.cap

/-- `full(F)`. -/
def Fifo.absFull (c : FifoCfg) (f : Fifo) : Bool := f.absCount c == c.cap

/-- `contents(F)`, oldest first. -/
def Fifo.contents (c : FifoCfg) (f : Fifo) : List Byte :=
  (List.range (f.absCount c)).map fun i => f.mem.read ((f.ghost.wabs - f.absCount c + i) % c.cap)

/-! ## The editor and STATUS -/

/-- The guard `LE.len = MAX_LEN-1` on which INSERT and OVERFLOW split (30_encoding.md R125). -/
def lineFull (s : State) : Bool := s.le.len == s.cfg.lineCap

/-- `BAUD_VALID(d)` (00_scope.md R9). -/
def baudValid (c : Config) (d : Byte) : Bool := !c.baudRefused.contains d

/-- STATUS selector 0 (30_encoding.md R122). -/
def statusFlags (s : State) : BitVec 28 :=
  (0 : BitVec 21) ++ BitVec.ofBool s.te.txEn ++ s.le.esc ++ BitVec.ofBool s.tx.lapErr
    ++ BitVec.ofBool (stageBit s.lapSync) ++ BitVec.ofBool (stageBit s.te.busySync)
    ++ BitVec.ofBool s.dp.pending

/-- The payload of STATUS by selector, none for a selector of 7 or more (30_encoding.md R122). -/
def statusPayload (a : Byte) (s : State) : Option (BitVec 28) :=
  if a = 0 then some (statusFlags s)
  else if a = 1 then some (BitVec.ofNat 28 (s.rx.countR s.cfg.rx))
  else if a = 2 then some (BitVec.ofNat 28 (s.tx.countW s.cfg.tx))
  else if a = 3 then some (payload2 (byteField s.le.len) (byteField s.le.cur))
  else if a = 4 then some (payload3 (byteField s.le.hw) (byteField s.le.hcount) (byteField s.le.hdepth))
  else if a = 5 then some (zext28 s.baud)
  else if a = 6 then some (payload2 (byteField s.dp.dlen) (byteField s.dp.argc))
  else none

end Sys2Proof.Machine
end

