-- ==== Sys2Proof/Machine/Operands.lean ====
section
/-! DEFINITION. What a request's or an action's operands name: bytes of the edit line, the dispatch line and
the history, and tokens. -/

namespace Sys2Proof.Machine

/-! ## The edit line and the history -/

/-- `LE.buf[0..LE.len)`. -/
def editLine (s : State) : List Byte := s.le.buf.slice 0 s.le.len

/-- `LE.buf[LE.cur..LE.len)`, the tail after the cursor. -/
def editTail (s : State) : List Byte := s.le.buf.slice s.le.cur (s.le.len - s.le.cur)

/-- `(LE.hw - n) mod H`: the slot n steps back from the write index (10_state.md R48). -/
def slotBack (n : Nat) (s : State) : Nat := subMod s.le.hw n s.cfg.hist

/-- `LE.hist[j]`. -/
def histMem (j : Nat) (s : State) : Memory := s.le.hist.getD j []

/-- `LE.hlen[j]`. -/
def histLen (j : Nat) (s : State) : Nat := s.le.hlen.getD j 0

/-- `LE.hist[j][0..LE.hlen[j])`. -/
def histLine (j : Nat) (s : State) : List Byte := (histMem j s).slice 0 (histLen j s)

/-- Whether the edit line equals the newest history entry (42_line_editor.md R262). -/
def isDuplicate (s : State) : Bool :=
  decide (0 < s.le.hcount) && histLen (slotBack 1 s) s == s.le.len
    && (histMem (slotBack 1 s) s).slice 0 s.le.len == editLine s

/-! ## The dispatch line and its tokens -/

/-- `DP.dline[0..DP.dlen)`. -/
def dispatchLine (s : State) : List Byte := s.dp.dline.slice 0 s.dp.dlen

/-- `DP.tok_start[k]`. -/
def tokStart (k : Nat) (s : State) : Nat := s.dp.tokStart.getD k 0

/-- `DP.tok_len[k]`. -/
def tokLen (k : Nat) (s : State) : Nat := s.dp.tokLen.getD k 0

/-- `DP.dline[tok_start[k] .. +tok_len[k])`. -/
def tokenBytes (k : Nat) (s : State) : List Byte := s.dp.dline.slice (tokStart k s) (tokLen k s)

end Sys2Proof.Machine
end

