-- ==== Sys2Proof/Machine/Commands.lean ====
section
/-! DEFINITION. The command dispatcher (43_dispatch.md): LINE_WR, LINE_RD, EXECUTE and EXEC, COMPLETE and TAB,
TOK_RD, CMD_STAT and CMD_DONE. -/

namespace Sys2Proof.Machine

/-! ## Loading and reading the dispatch line -/

/-- LINE_WR.CLR (R320). -/
def execLineWrClr (s : State) : Host.Outcome State Fault Refusal :=
  if s.dp.pending then .next (respond .busy 0 s)
  else .next (respond .ok 0 { s with dp.dlen := 0 })

/-- LINE_WR.PUT d; `a` is the sub-operation (R321). -/
def execLineWrPut (a d : Byte) (s : State) : Host.Outcome State Fault Refusal :=
  if 2 ≤ a.toNat then .next (respond .range (zext28 (byteField s.dp.dlen)) s)
  else if s.dp.pending then .next (respond .busy 0 s)
  else if s.dp.dlen = s.cfg.lineCap then .next (respond .full (zext28 (byteField s.dp.dlen)) s)
  else
    .next (respond .ok (zext28 (byteField (s.dp.dlen + 1)))
      { s with
        dp.dline := s.dp.dline.write s.dp.dlen d
        dp.dlen := s.dp.dlen + 1 })

/-- LINE_RD d (R322). -/
def execLineRd (d : Byte) (s : State) : Host.Outcome State Fault Refusal :=
  if s.dp.dlen ≤ d.toNat then .next (respond .range (payload2 (byteField s.dp.dlen) 0) s)
  else .next (respond .ok (payload2 (byteField s.dp.dlen) (s.dp.dline.read d.toNat)) s)

/-! ## Execute -/

/-- The delimiter byte, 0x20 (R331). -/
def space : Byte := 0x20

/-- The tokens of a line as (start, length), by the scan of R331: `i` is the index of the head of the list
and `start` where the open token began, if one is open. -/
def scanTokens : List Byte → Nat → Option Nat → List (Nat × Nat)
  | [], _, none => []
  | [], i, some st => [(st, i - st)]
  | c :: rest, i, none => if c = space then scanTokens rest (i + 1) none else scanTokens rest (i + 1) (some i)
  | c :: rest, i, some st =>
    if c = space then (st, i - st) :: scanTokens rest (i + 1) none else scanTokens rest (i + 1) (some st)

/-- The tokens kept: the first K (R331). -/
def keptTokens (s : State) : List (Nat × Nat) := (scanTokens (dispatchLine s) 0 none).take s.cfg.maxTok

/-- The first entries of `old` replaced by `new`. -/
def overlay (new old : List Nat) : List Nat := new ++ old.drop new.length

/-- TOKENIZE() (R331). -/
def tokenize (s : State) : State :=
  { s with
    dp.argc := (keptTokens s).length
    dp.tokStart := overlay ((keptTokens s).map Prod.fst) s.dp.tokStart
    dp.tokLen := overlay ((keptTokens s).map Prod.snd) s.dp.tokLen }

/-- MATCH(t): the least index whose name is `t` (R335). -/
def matchName (table : List (List Byte)) (t : List Byte) : Option Nat :=
  table.findIdx? fun nm => decide (nm = t)

/-- The hand-off of a matched command (R336). -/
def handOff (fromLe : Bool) (i : Nat) (s : State) : State :=
  { s with
    dp.pending := true
    dp.cmdIndex := i
    dp.fromLe := fromLe
    g.handoffs := s.g.handoffs ++
      [{ index := i, argc := s.dp.argc, tokens := (List.range s.dp.argc).map fun k => tokenBytes k s }] }

/-- EXECUTE(from_le) once the line is tokenized (R336). -/
def executeTokens (fromLe : Bool) (s : State) : ExecOut × State :=
  if s.dp.argc = 0 then (.noop, s)
  else
    match matchName s.cfg.cmdTable (tokenBytes 0 s) with
    | none => (.unknown, emit s.cfg.msgUnknown s)
    | some i => (.dispatched, handOff fromLe i s)

/-- EXECUTE(from_le) (R330, R336). -/
def execute (fromLe : Bool) (s : State) : ExecOut × State := executeTokens fromLe (tokenize s)

/-- EXEC's response (R337). -/
def execAnswer (out : ExecOut) (s : State) : State :=
  respond .ok
    (payloadCode (execCode out) (byteField s.dp.argc)
      (if out = .dispatched then byteField s.dp.cmdIndex else 0)) s

/-- EXEC (R337). -/
def execExecLine (s : State) : Host.Outcome State Fault Refusal :=
  if s.dp.pending then .next (respond .busy 0 s)
  else .next (execAnswer (execute false s).1 (execute false s).2)

/-! ## Tab completion -/

/-- `" help"` (R342). -/
def helpSuffix : List Byte := [0x20, 0x68, 0x65, 0x6C, 0x70]

/-- The first name that is a prefix of the partial (R342). -/
def helpIndex (table : List (List Byte)) (p : List Byte) : Option Nat :=
  table.findIdx? fun nm => decide (nm.length ≤ p.length ∧ p.take nm.length = nm)

/-- The names that have the partial as a proper prefix, in table order (R343). -/
def candidates (table : List (List Byte)) (p : List Byte) : List Nat :=
  (List.range table.length).filter fun i =>
    decide (p.length < (table.getD i []).length ∧ (table.getD i []).take p.length = p)

/-- Name i of the table. -/
def commandName (s : State) (i : Nat) : List Byte := s.cfg.cmdTable.getD i []

/-- The dispatch line becomes the given bytes; the cells past them keep theirs (log 15). -/
def setDispatchLine (bytes : List Byte) (s : State) : State :=
  { s with
    dp.dline := s.dp.dline.writeBytes 0 bytes
    dp.dlen := bytes.length }

/-- The listing of R344. -/
def listing (s : State) (cs : List Nat) : List Byte :=
  s.cfg.newline ++ (cs.map fun i => commandName s i ++ s.cfg.newline).flatten

/-- What COMPLETE() returns. -/
structure TabResult where
  out : TabOut
  count : Nat
  index : Nat
  deriving DecidableEq, Repr

/-- COMPLETE() past the help check: the prefix collection (R343, R344). -/
def completePrefix (s : State) : TabResult × State :=
  match candidates s.cfg.cmdTable (dispatchLine s) with
  | [] => ({ out := .noMatch, count := 0, index := 0 }, s)
  | [i] => ({ out := .singleMatch, count := 1, index := i }, setDispatchLine (commandName s i) s)
  | i :: j :: rest =>
    ({ out := .multipleMatches, count := (i :: j :: rest).length, index := 0 },
      emit (listing s (i :: j :: rest)) s)

/-- COMPLETE() (R340 to R344). -/
def complete (s : State) : TabResult × State :=
  if s.dp.dlen = 0 then ({ out := .noMatch, count := 0, index := 0 }, s)
  else
    match helpIndex s.cfg.cmdTable (dispatchLine s) with
    | some i =>
      ({ out := .helpShown, count := 1, index := i },
        (execute false (setDispatchLine (commandName s i ++ helpSuffix) s)).2)
    | none => completePrefix s

/-- TAB's response (R340). -/
def tabAnswer (r : TabResult) (s : State) : State :=
  respond .ok (payloadCode (tabCode r.out) (byteField (min r.count 255)) (byteField r.index)) s

/-- TAB (R340). -/
def execTab (s : State) : Host.Outcome State Fault Refusal :=
  if s.dp.pending then .next (respond .busy 0 s)
  else .next (tabAnswer (complete s).1 (complete s).2)

/-! ## Hand-off reads and completion -/

/-- TOK_RD d (R350). -/
def execTokRd (d : Byte) (s : State) : Host.Outcome State Fault Refusal :=
  if s.dp.argc ≤ d.toNat then .next (respond .range (payload3 (byteField s.dp.argc) 0 0) s)
  else
    .next (respond .ok
      (payload3 (byteField s.dp.argc) (byteField (tokLen d.toNat s)) (byteField (tokStart d.toNat s))) s)

/-- CMD_STAT (R351). -/
def execCmdStat (s : State) : Host.Outcome State Fault Refusal :=
  .next (respond .ok
    ((0 : BitVec 2) ++ BitVec.ofBool s.dp.fromLe ++ BitVec.ofBool s.dp.pending ++ (0 : BitVec 8)
      ++ byteField s.dp.argc ++ byteField s.dp.cmdIndex) s)

/-- The end of a hand-off, with the prompt ENTER deferred (R355). -/
def finishCommand (s : State) : State :=
  let t := { s with dp.pending := false }
  if s.dp.fromLe then emit s.cfg.prompt t else t

/-- CMD_DONE (R355). -/
def execCmdDone (s : State) : Host.Outcome State Fault Refusal :=
  if s.dp.pending then .next (respond .ok 1 (finishCommand s)) else .next (respond .ok 0 s)

end Sys2Proof.Machine
end

