-- ==== Sys2Proof/Machine/LineEditor.lean ====
section
/-! DEFINITION. The line editor (42_line_editor.md): its thirteen actions, its byte step, and LE_FEED, POLL
and HIST_RD. -/

namespace Sys2Proof.Machine

/-! ## Terminal bytes and helpers -/

/-- `"\b"` (30_encoding.md R128). -/
def bs : Byte := 0x08

/-- CLEAR_LINE()'s bytes for n cells (R273, 30_encoding.md R128). -/
def clearBytes (n : Nat) : List Byte := List.replicate n bs ++ List.replicate n space ++ List.replicate n bs

/-- CLEAR_LINE() (R273). -/
def clearLine (s : State) : State := emit (clearBytes s.le.len) s

/-- LOAD_ENTRY(j) (R274). -/
def loadEntry (j : Nat) (s : State) : State :=
  emit (histLine j s)
    { s with
      le.buf := s.le.buf.writeBytes 0 (histLine j s)
      le.len := histLen j s
      le.cur := histLen j s }

/-- HIST_COMMIT() (R275). -/
def histCommit (s : State) : State :=
  { s with
    le.hist := s.le.hist.set s.le.hw ((histMem s.le.hw s).writeBytes 0 (editLine s))
    le.hlen := s.le.hlen.set s.le.hw s.le.len
    le.hw := (s.le.hw + 1) % s.cfg.hist
    le.hcount := min (s.le.hcount + 1) s.cfg.hist }

/-! ## Actions -/

/-- LE.IGNORE (R260). -/
def actIgnore (s : State) : State := s

/-- A change of the escape state alone (R261, R266, R267, R272). -/
def setEsc (e : BitVec 2) (s : State) : State := { s with le.esc := e }

/-- ENTER's history commit: a non-empty line that differs from the newest entry (R262). -/
def commitLine (s : State) : State :=
  if decide (0 < s.le.len) && !isDuplicate s then histCommit s else s

/-- ENTER's hand-over of the line to the dispatcher and the clearing of the edit state (R262). -/
def handLine (s : State) : State :=
  { s with
    le.hdepth := 0
    le.len := 0
    le.cur := 0
    dp.dline := s.dp.dline.writeBytes 0 (editLine s)
    dp.dlen := s.le.len }

/-- The prompt after an EXECUTE that handed nothing off (R262). -/
def promptUnlessDispatched (out : ExecOut) (s : State) : State :=
  if out = .dispatched then s else emit s.cfg.prompt s

/-- LE.ENTER (R262). -/
def actEnter (s : State) : State :=
  let r := execute true (handLine (commitLine (emit s.cfg.newline s)))
  promptUnlessDispatched r.1 r.2

/-- LE.BACKSPACE (R263). -/
def actBackspace (s : State) : State :=
  if s.le.cur = 0 then s
  else
    emit ([bs] ++ editTail s ++ [space, bs] ++ List.replicate (s.le.len - s.le.cur) bs)
      { s with
        le.buf := (s.le.buf.writeBytes (s.le.cur - 1) (editTail s)).write (s.le.len - 1) 0
        le.len := s.le.len - 1
        le.cur := s.le.cur - 1 }

/-- The effect of INSERT b on a line that has room (R264). -/
def insertByte (b : Byte) (s : State) : State :=
  emit ([b] ++ editTail s ++ List.replicate (s.le.len - s.le.cur) bs)
    { s with
      le.buf := (s.le.buf.writeBytes (s.le.cur + 1) (editTail s)).write s.le.cur b
      le.len := s.le.len + 1
      le.cur := s.le.cur + 1 }

/-- The effect of OVERFLOW (R265). -/
def discardLine (s : State) : State :=
  emit s.cfg.prompt (emit s.cfg.msgOverflow
    { s with
      le.len := 0
      le.cur := 0
      le.hdepth := 0
      le.esc := 0 })

/-- A printable byte in Normal: the shared decode of INSERT and OVERFLOW, split on the guard (30_encoding.md
R125, log 11). -/
def typePrintable (b : Byte) (s : State) : State := if lineFull s then discardLine s else insertByte b s

/-- LE.HIST_PREV (R268). -/
def actHistPrev (s : State) : State :=
  let t := setEsc 0 s
  if s.le.hdepth < s.le.hcount then
    loadEntry (slotBack (s.le.hdepth + 1) s) { clearLine t with le.hdepth := s.le.hdepth + 1 }
  else t

/-- LE.HIST_NEXT (R269). -/
def actHistNext (s : State) : State :=
  let t := setEsc 0 s
  if s.le.hdepth = 0 then t
  else
    let u := { clearLine t with le.hdepth := s.le.hdepth - 1 }
    if s.le.hdepth = 1 then { u with le.len := 0, le.cur := 0 }
    else loadEntry (slotBack (s.le.hdepth - 1) s) u

/-- LE.CUR_RIGHT (R270). -/
def actCurRight (s : State) : State :=
  let t := setEsc 0 s
  if s.le.cur < s.le.len then { emit [s.le.buf.read s.le.cur] t with le.cur := s.le.cur + 1 } else t

/-- LE.CUR_LEFT (R271). -/
def actCurLeft (s : State) : State :=
  let t := setEsc 0 s
  if 0 < s.le.cur then { emit [bs] t with le.cur := s.le.cur - 1 } else t

/-! ## The table's rows -/

/-- LE.IGNORE (R260). -/
def execLeIgnore (_b : Byte) (s : State) : Host.Outcome State Fault Refusal := .next (actIgnore s)

/-- LE.ESC_ENTER (R261). -/
def execLeEscEnter (s : State) : Host.Outcome State Fault Refusal := .next (setEsc 1 s)

/-- LE.ENTER (R262). -/
def execLeEnter (s : State) : Host.Outcome State Fault Refusal := .next (actEnter s)

/-- LE.BACKSPACE (R263). -/
def execLeBackspace (_b : Byte) (s : State) : Host.Outcome State Fault Refusal := .next (actBackspace s)

/-- LE.INSERT (R264); on a full line the same word is OVERFLOW (log 11). -/
def execLeInsert (b : Byte) (s : State) : Host.Outcome State Fault Refusal := .next (typePrintable b s)

/-- LE.OVERFLOW (R265); on a line with room the same word is INSERT (log 11). -/
def execLeOverflow (b : Byte) (s : State) : Host.Outcome State Fault Refusal := .next (typePrintable b s)

/-- LE.ESC_DROP (R266). -/
def execLeEscDrop (_b : Byte) (s : State) : Host.Outcome State Fault Refusal := .next (setEsc 0 s)

/-- LE.CSI_ENTER (R267). -/
def execLeCsiEnter (s : State) : Host.Outcome State Fault Refusal := .next (setEsc 2 s)

/-- LE.HIST_PREV (R268). -/
def execLeHistPrev (s : State) : Host.Outcome State Fault Refusal := .next (actHistPrev s)

/-- LE.HIST_NEXT (R269). -/
def execLeHistNext (s : State) : Host.Outcome State Fault Refusal := .next (actHistNext s)

/-- LE.CUR_RIGHT (R270). -/
def execLeCurRight (s : State) : Host.Outcome State Fault Refusal := .next (actCurRight s)

/-- LE.CUR_LEFT (R271). -/
def execLeCurLeft (s : State) : Host.Outcome State Fault Refusal := .next (actCurLeft s)

/-- LE.CSI_DROP (R272). -/
def execLeCsiDrop (_b : Byte) (s : State) : Host.Outcome State Fault Refusal := .next (setEsc 0 s)

/-- LE.ILLEGAL_ESC_STATE: the model fault, and no action (30_encoding.md R126, R252). -/
def execLeIllegalEscState (_b : Byte) (s : State) : Host.Outcome State Fault Refusal :=
  .next (raise .illegalEscState s)

/-! ## The byte step and the requests -/

/-- The effect of an action on the state (R260 to R272, 30_encoding.md R126). -/
def actEffect (b : Byte) (s : State) : LeAct → State
  | .ignore => actIgnore s
  | .escEnter => setEsc 1 s
  | .enter => actEnter s
  | .backspace => actBackspace s
  | .insert => typePrintable b s
  | .overflow => typePrintable b s
  | .escDrop => setEsc 0 s
  | .csiEnter => setEsc 2 s
  | .histPrev => actHistPrev s
  | .histNext => actHistNext s
  | .curRight => actCurRight s
  | .curLeft => actCurLeft s
  | .csiDrop => setEsc 0 s
  | .illegalEscState => raise .illegalEscState s

/-- The action the input byte selects in the editor's state (R252, 30_encoding.md R125). -/
def leActOf (b : Byte) (s : State) : LeAct := decodeLeAct (lineFull s) (s.le.esc ++ b)

/-- LE_STEP(b): the action's code and the state after it (R252). The code of escape state 3 is a free
value (log 4). -/
def leStep (b : Byte) (s : State) : BitVec 4 × State :=
  match actionCode (leActOf b s) with
  | some code => (code, actEffect b s (leActOf b s))
  | none => (BitVec.ofNat 4 (Config.freeAction s.draws).val, { actEffect b s (leActOf b s) with draws := s.draws + 1 })

/-- LE_FEED d (R250). -/
def execLeFeed (d : Byte) (s : State) : Host.Outcome State Fault Refusal :=
  if s.dp.pending then .next (respond .busy 0 s)
  else
    let r := leStep d s
    .next (respond .ok (payloadAct r.1 r.2.le.esc 0) r.2)

/-- POLL (R251). -/
def execPoll (s : State) : Host.Outcome State Fault Refusal :=
  if s.dp.pending then .next (respond .busy 0 s)
  else
    match popRx s with
    | (none, t) => .next (respond .empty 0 t)
    | (some v, t) =>
      let r := leStep v t
      .next (respond .ok (payloadAct r.1 r.2.le.esc v) r.2)

/-- HIST_RD a, d (R276). -/
def execHistRd (a d : Byte) (s : State) : Host.Outcome State Fault Refusal :=
  let j := slotBack (1 + a.toNat) s
  if s.le.hcount ≤ a.toNat then .next (respond .range 0 s)
  else if histLen j s ≤ d.toNat then .next (respond .range (payload2 (byteField (histLen j s)) 0) s)
  else .next (respond .ok (payload2 (byteField (histLen j s)) ((histMem j s).read d.toNat)) s)

end Sys2Proof.Machine
end

