-- ==== Sys2Proof/Machine/Transport.lean ====
section
/-! DEFINITION. The transport (41_transport.md): the port events, the TX engine, and NOP, ILLEGAL, RX_POP,
TX_SEND, STATUS and RECONF. -/

namespace Sys2Proof.Machine

/-! ## RxDom and TxDom -/

/-- RX_BYTE(b) (R200). -/
def execRxByte (b : Byte) (s : State) : Host.Outcome State Fault Refusal := .next (pushRx b s)

/-- START_TX(v) (R205). -/
def startTx (v : Byte) (s : State) : State :=
  { s with
    te.inflight := v
    te.busy := true
    txStart := some v
    g.txlog := s.g.txlog ++ [v] }

/-- Idle start (R204). -/
def idleStart (s : State) : State :=
  if !s.te.busy && stageBit s.te.enSync then
    match popTx s with
    | (none, t) => t
    | (some v, t) => startTx v t
  else s

/-- The chain step of R203: the next byte, or the end of the chain. -/
def chainNext (s : State) : State :=
  match popTx s with
  | (none, t) => { t with te.busy := false }
  | (some v, t) => startTx v t

/-- TX_DONE (R203, R207). -/
def execTxDone (s : State) : Host.Outcome State Fault Refusal :=
  .next (if s.te.busy then chainNext s else s)

/-! ## Requests -/

/-- NOP (R211). -/
def execNop (s : State) : Host.Outcome State Fault Refusal := .next (respond .ok 0 s)

/-- ILLEGAL (R212). -/
def execIllegal (_req : Word) (s : State) : Host.Outcome State Fault Refusal :=
  .next (respond .illegal 0 s)

/-- RX_POP (R220). -/
def execRxPop (s : State) : Host.Outcome State Fault Refusal :=
  match popRx s with
  | (none, t) => .next (respond .empty 0 t)
  | (some v, t) => .next (respond .ok (zext28 v) t)

/-- TX_SEND d (R221). -/
def execTxSend (d : Byte) (s : State) : Host.Outcome State Fault Refusal :=
  .next (respond .ok 1 { pushTx d s with te.txEn := true })

/-- STATUS a (R224). -/
def execStatus (a : Byte) (s : State) : Host.Outcome State Fault Refusal :=
  match statusPayload a s with
  | some p => .next (respond .ok p s)
  | none => .next (respond .range 0 s)

/-- The quiesce of RECONF (R230, R232). -/
def quiesce (s : State) : State :=
  { s with
    te.busy := false
    te.txEn := false
    te.enSync := List.replicate s.cfg.depth false
    te.busySync := List.replicate s.cfg.depth false }

/-- RECONF after its quiesce, with the physical layer's init result `ok` (R230, R233). -/
def reinit (d : Byte) (ok : Bool) (s : State) : State :=
  if ok then respond .ok (zext28 d) { s with baud := d } else respond .fail (zext28 s.baud) s

/-- RECONF d (R230 to R233); the init result is a draw. -/
def execReconf (d : Byte) (s : State) : Host.Outcome State Fault Refusal :=
  if baudValid s.cfg d then
    .next (reinit d (Config.freeInitOk s.draws) { quiesce s with draws := s.draws + 1 })
  else .next (respond .fail (zext28 s.baud) s)

end Sys2Proof.Machine
end

