-- ==== Sys2Proof/Machine/Dispatch.lean ====
section
/-! DEFINITION. One arm per instruction: what each row of spec/opcode_table.json does in the logic phase of
the tick that carries it. -/

namespace Sys2Proof.Machine

def exec (i : Instr) (s : State) : Host.Outcome State Fault Refusal :=
  match i with
  -- Transport requests (41_transport.md)
  | .nop => Sys2Proof.Machine.execNop s
  | .rxPop => Sys2Proof.Machine.execRxPop s
  | .txSend d => Sys2Proof.Machine.execTxSend d s
  | .leFeed d => Sys2Proof.Machine.execLeFeed d s
  | .poll => Sys2Proof.Machine.execPoll s
  | .lineWrClr => Sys2Proof.Machine.execLineWrClr s
  | .lineWrPut a d => Sys2Proof.Machine.execLineWrPut a d s
  | .execLine => Sys2Proof.Machine.execExecLine s
  | .tab => Sys2Proof.Machine.execTab s
  | .lineRd d => Sys2Proof.Machine.execLineRd d s
  | .tokRd d => Sys2Proof.Machine.execTokRd d s
  | .cmdStat => Sys2Proof.Machine.execCmdStat s
  | .cmdDone => Sys2Proof.Machine.execCmdDone s
  | .status a => Sys2Proof.Machine.execStatus a s
  | .histRd a d => Sys2Proof.Machine.execHistRd a d s
  | .reconf d => Sys2Proof.Machine.execReconf d s
  | .illegal req => Sys2Proof.Machine.execIllegal req s
  -- Line-editor actions (42_line_editor.md)
  | .leIgnore b => Sys2Proof.Machine.execLeIgnore b s
  | .leEscEnter => Sys2Proof.Machine.execLeEscEnter s
  | .leEnter => Sys2Proof.Machine.execLeEnter s
  | .leBackspace b => Sys2Proof.Machine.execLeBackspace b s
  | .leInsert b => Sys2Proof.Machine.execLeInsert b s
  | .leOverflow b => Sys2Proof.Machine.execLeOverflow b s
  | .leEscDrop b => Sys2Proof.Machine.execLeEscDrop b s
  | .leCsiEnter => Sys2Proof.Machine.execLeCsiEnter s
  | .leHistPrev => Sys2Proof.Machine.execLeHistPrev s
  | .leHistNext => Sys2Proof.Machine.execLeHistNext s
  | .leCurRight => Sys2Proof.Machine.execLeCurRight s
  | .leCurLeft => Sys2Proof.Machine.execLeCurLeft s
  | .leCsiDrop b => Sys2Proof.Machine.execLeCsiDrop b s
  | .leIllegalEscState b => Sys2Proof.Machine.execLeIllegalEscState b s
  -- Port events (41_transport.md)
  | .rxByte b => Sys2Proof.Machine.execRxByte b s
  | .txDone => Sys2Proof.Machine.execTxDone s

end Sys2Proof.Machine
end

