-- ==== Sys2Proof/Machine/Fetch.lean ====
section
/-! DEFINITION. What comes before a tick's logic: the tick the environment or the scheduler gives, the
synchronizer and publisher phases of each domain (40_fifo_cdc.md R162), and the reset under a checked
configuration (70_reset_and_hazards.md R413). -/

namespace Sys2Proof.Machine

/-! ## The next tick -/

/-- A tick of an agent without inputs. -/
def idleTick : Agent → Tick
  | .core => .core none
  | .rxDom => .rx none
  | .txDom => .tx false

/-- The next tick and the state without it: the environment's next offer, or, when it offers nothing more,
an input-less tick of the domain a free value names (00_scope.md R21, R22; log 2). -/
def fetch (s : State) : Tick × State :=
  match s.env with
  | t :: rest => (t, { s with env := rest })
  | [] => (idleTick (Config.freeAgent s.draws), { s with draws := s.draws + 1 })

/-! ## Phases 1 and 2 -/

/-- Phases 1 and 2 of an RxDom tick (41_transport.md R201). -/
def rxPhases (s : State) : State :=
  { s with
    rx.rsync := syncShift s.rx.rpub s.rx.rsync
    rx.wpub := publish s.cfg.rx s.rx.wptr s.rx.wpub }

/-- Phases 1 and 2 of a TxDom tick (41_transport.md R206); the start pulse of the tick before ends
(R205). -/
def txPhases (s : State) : State :=
  { s with
    tx.wsync := syncShift s.tx.wpub s.tx.wsync
    te.enSync := syncShift s.te.txEn s.te.enSync
    tx.rpub := publish s.cfg.tx s.tx.rptr s.tx.rpub
    txStart := none }

/-- Phases 1 and 2 of a Core tick (41_transport.md R210); the response of the tick before is gone
(30_encoding.md R116). -/
def corePhases (s : State) : State :=
  { s with
    rx.wsync := syncShift s.rx.wpub s.rx.wsync
    rx.rpub := publish s.cfg.rx s.rx.rptr s.rx.rpub
    tx.rsync := syncShift s.tx.rpub s.tx.rsync
    tx.wpub := publish s.cfg.tx s.tx.wptr s.tx.wpub
    te.busySync := syncShift s.te.busy s.te.busySync
    lapSync := syncShift s.rx.lapErr s.lapSync
    rsp := none }

/-! ## Offering one instruction -/

/-- The environment offers one more tick, before all others. -/
def offer (t : Tick) (s : State) : State := { s with env := t :: s.env }

/-- The state in which the very next step runs the instruction of a table row's word (log 12, log 16). A
line-editor word is run by feeding its byte while the editor is in its escape state and nothing is
pending. -/
def placeWord (nbits w : Nat) (s : State) : State :=
  match formatOfBits nbits with
  | none => s
  | some .req32 => offer (.core (some (BitVec.ofNat 32 w))) s
  | some .le10 =>
    offer (.core (some (encodeReq 0x3 0 (leByteOf (BitVec.ofNat 10 w)))))
      { s with
        le.esc := leEscOf (BitVec.ofNat 10 w)
        dp.pending := false }
  | some .rxPort =>
    offer (.rx (if (BitVec.ofNat 9 w).getLsbD 8 then some ((BitVec.ofNat 9 w).extractLsb' 0 8) else none)) s
  | some .txPort => offer (.tx (decide (BitVec.ofNat 1 w = 1))) s

/-! ## Configuration check and reset -/

/-- The sizes of one FIFO (00_scope.md R9). -/
def fifoCfgOk (c : FifoCfg) : Bool :=
  decide (1 ≤ c.aw ∧ c.aw ≤ 15 ∧ c.aw + 1 ≤ c.pw ∧ c.pw ≤ 16)

/-- One command name: 1 byte or more, each in 0x21..0x7E, room for `" help"` (00_scope.md R9, R12). -/
def nameOk (c : Config) (nm : List Byte) : Bool :=
  decide (1 ≤ nm.length ∧ nm.length + 5 ≤ c.lineCap) &&
    nm.all fun b => decide (0x21 ≤ b.toNat ∧ b.toNat ≤ 0x7E)

/-- The constraints of 00_scope.md R9 and R11. -/
def configOk (c : Config) : Bool :=
  fifoCfgOk c.rx && fifoCfgOk c.tx
    && decide (2 ≤ c.depth ∧ c.depth ≤ 8)
    && decide (2 ≤ c.maxLen ∧ c.maxLen ≤ 256)
    && decide (1 ≤ c.hist ∧ c.hist ≤ 255)
    && decide (1 ≤ c.maxTok ∧ c.maxTok ≤ 255)
    && decide (1 ≤ c.cmdTable.length ∧ c.cmdTable.length ≤ 255)
    && decide c.cmdTable.Nodup
    && c.cmdTable.all (nameOk c)
    && decide (c.prompt.length ≤ 255 ∧ c.newline.length ≤ 8)
    && decide (c.msgUnknown.length ≤ 255 ∧ c.msgOverflow.length ≤ 255)
    && baudValid c c.baudReset

/-- Reset under a configuration: one that breaks a constraint is refused (60_exceptions.md R390,
70_reset_and_hazards.md R413). -/
def resetUnder (c : Config) : Host.Outcome State Fault Refusal :=
  if configOk c then .next (State.resetWith c) else .refused .configRefused

end Sys2Proof.Machine
end

