-- ==== Sys2Proof/Machine/Tick.lean ====
section
/-! DEFINITION. One tick: the domain's phases 1 and 2, then its logic (40_fifo_cdc.md R162). -/

namespace Sys2Proof.Machine

/-- Phase 3 of a TxDom tick without an event, or whose TX_DONE found the engine idle: the idle start
(41_transport.md R204, R206, R207; log 10). -/
def thenIdleStart (wasBusy : Bool) (r : Host.Outcome State Fault Refusal) : Host.Outcome State Fault Refusal :=
  match r with
  | .next t => if wasBusy then .next t else .next (idleStart t)
  | .fault x => .fault x
  | .refused x => .refused x

/-- One tick (41_transport.md R201, R206, R210). -/
def runTick (t : Tick) (s : State) : Host.Outcome State Fault Refusal :=
  match t with
  | .core none => .next (corePhases s)
  | .core (some w) => exec (decodeReq w) (corePhases s)
  | .rx none => .next (rxPhases s)
  | .rx (some b) => exec (.rxByte b) (rxPhases s)
  | .tx false => .next (idleStart (txPhases s))
  | .tx true => thenIdleStart s.te.busy (exec .txDone (txPhases s))

end Sys2Proof.Machine
end

