-- ==== Sys2Proof/Machine/Step.lean ====
section
/-! DEFINITION. One step of the machine: the next tick of one agent (00_scope.md R21), and the state in which
the next step runs a given instruction. -/

namespace Sys2Proof.Machine

/-- One step: one clock tick of one agent. -/
def step (s : State) : Host.Outcome State Fault Refusal := runTick (fetch s).1 (fetch s).2

/-- `s` with the instruction of a table row's word as what the next step runs (log 16). -/
def State.withFetchWord (s : State) (nbits w : Nat) : State := placeWord nbits w s

end Sys2Proof.Machine
end

