-- ==== Sys2Proof/Safety.lean ====
section
/-! DEFINITION. The terms claims use: the invariant of 10_state.md R61, which domain owns which field (R32),
the end of a run (70_reset_and_hazards.md R431), the history's property (42_line_editor.md R277), and what
draining a FIFO yields (40_fifo_cdc.md R183). -/

namespace Sys2Proof.Machine

/-! ## The configuration, as 00_scope.md R9 lists its constraints -/

/-- The sizes of one FIFO. -/
abbrev LegalFifo (c : FifoCfg) : Prop := 1 ≤ c.aw ∧ c.aw ≤ 15 ∧ c.aw + 1 ≤ c.pw ∧ c.pw ≤ 16

/-- A command name: at least one byte, each in 0x21..0x7E, and room for `" help"` in a line. -/
abbrev LegalName (c : Config) (nm : List Byte) : Prop :=
  1 ≤ nm.length ∧ nm.length + 5 ≤ c.maxLen - 1 ∧ ∀ b ∈ nm, 0x21 ≤ b.toNat ∧ b.toNat ≤ 0x7E

/-- The command table: 1 to 255 distinct legal names (R9, R11). -/
def LegalTable (c : Config) : Prop :=
  1 ≤ c.cmdTable.length ∧ c.cmdTable.length ≤ 255 ∧ c.cmdTable.Nodup ∧ ∀ nm ∈ c.cmdTable, LegalName c nm
  deriving Decidable

/-- The sizes of the editor, the history and the tokenizer, and the synchronizer depth. -/
def LegalSizes (c : Config) : Prop :=
  2 ≤ c.depth ∧ c.depth ≤ 8 ∧ 2 ≤ c.maxLen ∧ c.maxLen ≤ 256
    ∧ 1 ≤ c.hist ∧ c.hist ≤ 255 ∧ 1 ≤ c.maxTok ∧ c.maxTok ≤ 255
  deriving Decidable

/-- The lengths of the texts. -/
def LegalTexts (c : Config) : Prop :=
  c.prompt.length ≤ 255 ∧ c.newline.length ≤ 8
    ∧ c.msgUnknown.length ≤ 255 ∧ c.msgOverflow.length ≤ 255
  deriving Decidable

/-- Every constraint of 00_scope.md R9 and R11. -/
def LegalConfig (c : Config) : Prop :=
  LegalFifo c.rx ∧ LegalFifo c.tx ∧ LegalSizes c ∧ LegalTable c ∧ LegalTexts c
    ∧ c.baudReset ∉ c.baudRefused
  deriving Decidable

/-! ## The invariant -/

/-- A storage in canonical form with no cell at or past `n`. -/
abbrev StorageOk (n : Nat) (m : Memory) : Prop := m.wf ∧ ∀ c ∈ m, c.1 < n

/-- What holds of a FIFO in every state, faulted or not: the pointers are the ghost counts mod `2^PW`
(10_state.md R60), the synchronizers have S stages, and the tag of a cell is the push that last wrote it. -/
def FifoInv (c : FifoCfg) (depth : Nat) (f : Fifo) : Prop :=
  StorageOk c.cap f.mem
    ∧ f.wptr = f.ghost.wabs % c.modulus ∧ f.rptr = f.ghost.rabs % c.modulus
    ∧ f.rsync.length = depth ∧ f.wsync.length = depth
    ∧ f.ghost.tag.Pairwise (fun x y => x.1 < y.1) ∧ (∀ x ∈ f.ghost.tag, x.1 < c.cap)
    ∧ ∀ k ∈ List.range f.ghost.wabs, f.ghost.wabs ≤ k + c.cap → lookupKey f.ghost.tag (k % c.cap) = some k
  deriving Decidable

/-- How far behind the write pointer a gray copy is. -/
def Fifo.lag (c : FifoCfg) (f : Fifo) (g : Nat) : Nat := subMod f.wptr (bin c.pw g) c.modulus

/-- The lags along the crossing, from the write pointer's own copy through the read side and back to the
write side's view of the read pointer. -/
def Fifo.lags (c : FifoCfg) (f : Fifo) : List Nat :=
  f.lag c f.wpub :: (f.wsync.map (f.lag c)
    ++ (f.ghost.wabs - f.ghost.rabs) :: f.lag c f.rpub :: f.rsync.map (f.lag c))

/-- What holds of a crossing while no fault has been raised (10_state.md R61): every copy is a gray code of
PW bits, and the lags rise along the crossing, so each copy stands for a value at or behind its pointer's
counter and no side's view runs ahead of the other's pointer. Bullet 2 of R61 says more, that the pointer held
that value; a discard jumps `rptr` and `rpub` then passes every code between (40_fifo_cdc.md R160, R171), so
"at or behind the counter" is the model's reading (DEDUCED, log 22). -/
def CrossInv (c : FifoCfg) (f : Fifo) : Prop :=
  f.ghost.rabs ≤ f.ghost.wabs
    ∧ (∀ g ∈ f.wpub :: f.rpub :: (f.wsync ++ f.rsync), g < c.modulus)
    ∧ (f.lags c).Pairwise (· ≤ ·)
    ∧ ∀ l ∈ f.lags c, l ≤ f.ghost.wabs
  deriving Decidable

/-- The one-bit synchronizers have S stages, and the rate code is valid. -/
def EngineInv (s : State) : Prop :=
  s.te.enSync.length = s.cfg.depth ∧ s.te.busySync.length = s.cfg.depth
    ∧ s.lapSync.length = s.cfg.depth ∧ s.baud ∉ s.cfg.baudRefused
  deriving Decidable

/-- The line editor's bounds (10_state.md R61). R61 bounds `LE.hlen` of the stored entries alone; the bound on
the other slots is the model's, and after reset it rests on the 0 of log 6 (DESIGN CHOICE). -/
def LeInv (c : Config) (le : LineEditor) : Prop :=
  StorageOk c.lineCap le.buf
    ∧ le.cur ≤ le.len ∧ le.len ≤ c.lineCap
    ∧ le.hist.length = c.hist ∧ (∀ m ∈ le.hist, StorageOk c.lineCap m)
    ∧ le.hlen.length = c.hist ∧ (∀ n ∈ le.hlen, n ≤ c.lineCap)
    ∧ le.hw < c.hist ∧ le.hcount ≤ c.hist ∧ le.hdepth ≤ le.hcount
    ∧ le.esc ≠ 3
  deriving Decidable

/-- The dispatcher's bounds (10_state.md R49 to R51, R61). -/
def DpInv (c : Config) (dp : Dispatcher) : Prop :=
  StorageOk c.lineCap dp.dline
    ∧ dp.dlen ≤ c.lineCap ∧ dp.argc ≤ c.maxTok
    ∧ dp.tokStart.length = c.maxTok ∧ dp.tokLen.length = c.maxTok
    ∧ (∀ k ∈ List.range dp.argc, dp.tokStart.getD k 0 + dp.tokLen.getD k 0 ≤ c.lineCap)
    ∧ dp.cmdIndex < c.cmdTable.length
    ∧ (dp.pending = true → 1 ≤ dp.argc)
  deriving Decidable

/-- A lap flag is up only in a faulted state (40_fifo_cdc.md R151). -/
def LapInv (s : State) : Prop :=
  (s.rx.lapErr = true → s.g.fault ≠ none) ∧ (s.tx.lapErr = true → s.g.fault ≠ none)
  deriving Decidable

/-- The invariant of the machine. -/
def Inv (s : State) : Prop :=
  LegalConfig s.cfg
    ∧ FifoInv s.cfg.rx s.cfg.depth s.rx ∧ FifoInv s.cfg.tx s.cfg.depth s.tx
    ∧ (s.g.fault = none → CrossInv s.cfg.rx s.rx ∧ CrossInv s.cfg.tx s.tx)
    ∧ LapInv s ∧ EngineInv s ∧ LeInv s.cfg s.le ∧ DpInv s.cfg s.dp
  deriving Decidable

/-- No two adjacent history entries are equal (42_line_editor.md R277). -/
def HistoryDistinct (s : State) : Prop :=
  ∀ k ∈ List.range s.le.hcount, k + 1 < s.le.hcount →
    histLine (slotBack (k + 1) s) s ≠ histLine (slotBack (k + 2) s) s
  deriving Decidable

/-! ## Which tick a step is -/

/-- The tick the next step runs: the environment's next offer, or with nothing offered an input-less tick of
the domain the free value names (00_scope.md R21, R22; log 2). -/
def nextTick (s : State) : Tick :=
  match s.env with
  | t :: _ => t
  | [] => idleTick (Config.freeAgent s.draws)

/-! ## Who owns a field (10_state.md R32) -/

/-- The fields RxDom's ticks write. -/
def rxDomFields (s : State) : Memory × Nat × Nat × List Nat × Bool :=
  (s.rx.mem, s.rx.wptr, s.rx.wpub, s.rx.rsync, s.rx.lapErr)

/-- The fields TxDom's ticks write. -/
def txDomFields (s : State) : Nat × Nat × List Nat × Bool × Byte × List Bool :=
  (s.tx.rptr, s.tx.rpub, s.tx.wsync, s.te.busy, s.te.inflight, s.te.enSync)

/-- The fields Core's ticks write: the transport's. -/
def coreTransportFields (s : State) :
    (Nat × Nat × List Nat × List Bool) × (Memory × Nat × Nat × List Nat × Bool) × Bool × List Bool × Byte :=
  ((s.rx.rptr, s.rx.rpub, s.rx.wsync, s.lapSync),
    (s.tx.mem, s.tx.wptr, s.tx.wpub, s.tx.rsync, s.tx.lapErr),
    s.te.txEn, s.te.busySync, s.baud)

/-- The fields Core's ticks write, all of them. -/
def coreFields (s : State) :=
  (coreTransportFields s, s.le, s.dp)

/-! ## The end of a run (70_reset_and_hazards.md R431) -/

/-- A tick that offers neither a request nor a received byte. -/
def Tick.quiet : Tick → Bool
  | .core (some _) => false
  | .rx (some _) => false
  | .core none | .rx none | .tx _ => true

/-- Nothing unread, and every copy equal to its source. -/
def FifoSettled (f : Fifo) : Prop :=
  f.ghost.wabs = f.ghost.rabs
    ∧ f.wpub = gray f.wptr ∧ f.rpub = gray f.rptr
    ∧ (∀ x ∈ f.wsync, x = f.wpub) ∧ (∀ x ∈ f.rsync, x = f.rpub)
  deriving Decidable

/-- The quiescent states. -/
def Quiescent (s : State) : Prop :=
  s.g.fault = none ∧ s.dp.pending = false
    ∧ FifoSettled s.rx ∧ FifoSettled s.tx
    ∧ (∀ x ∈ s.te.enSync, x = s.te.txEn) ∧ (∀ x ∈ s.te.busySync, x = s.te.busy)
    ∧ (∀ x ∈ s.lapSync, x = s.rx.lapErr)
    ∧ s.te.busy = false
    ∧ ∀ t ∈ s.env, t.quiet = true
  deriving Decidable

/-! ## Draining a FIFO (40_fifo_cdc.md R183) -/

/-- Pushes, in order. -/
def Fifo.pushAll (c : FifoCfg) : List Byte → Fifo → Fifo
  | [], f => f
  | b :: rest, f => (f.push c b).pushAll c rest

/-- The read side's view has caught up with the write pointer. -/
def Fifo.caughtUp (f : Fifo) : Fifo := { f with wsync := f.wsync.map fun _ => gray f.wptr }

/-- What n pops return. -/
def Fifo.popMany (c : FifoCfg) (draw : Byte) : Nat → Fifo → List (Option Byte)
  | 0, _ => []
  | n + 1, f => (f.pop c draw).byte :: (f.pop c draw).fifo.popMany c draw n

/-! ## What a line says -/

/-- `i` is the first index of the table at which the name `t` stands (43_dispatch.md R335). -/
abbrev FirstNamed (table : List (List Byte)) (t : List Byte) (i : Nat) : Prop :=
  table[i]? = some t ∧ ∀ j < i, table[j]? ≠ some t

/-- `i` is the first index of the table whose name is a prefix of `p` (43_dispatch.md R342). -/
abbrev FirstPrefixOf (table : List (List Byte)) (p : List Byte) (i : Nat) : Prop :=
  (∃ nm, table[i]? = some nm ∧ nm <+: p) ∧ ∀ j < i, ∀ nm, table[j]? = some nm → ¬ nm <+: p

/-- The tokens a line is cut into, as (start, length): every maximal run of bytes other than 0x20, in order
(43_dispatch.md R331). -/
def MaximalRuns (l : List Byte) (ts : List (Nat × Nat)) : Prop :=
  (∀ p ∈ ts, 0 < p.2 ∧ p.1 + p.2 ≤ l.length
      ∧ (∀ i, p.1 ≤ i → i < p.1 + p.2 → l[i]? ≠ some 0x20)
      ∧ (p.1 = 0 ∨ l[p.1 - 1]? = some 0x20)
      ∧ (p.1 + p.2 = l.length ∨ l[p.1 + p.2]? = some 0x20))
    ∧ (∀ i b, l[i]? = some b → b ≠ 0x20 → ∃ p ∈ ts, p.1 ≤ i ∧ i < p.1 + p.2)
    ∧ ts.Pairwise (fun p q => p.1 + p.2 < q.1)

/-- The state with its line tokenized into `ts`. -/
def withTokens (ts : List (Nat × Nat)) (s : State) : State :=
  { s with
    dp.argc := ts.length
    dp.tokStart := ts.map Prod.fst ++ s.dp.tokStart.drop ts.length
    dp.tokLen := ts.map Prod.snd ++ s.dp.tokLen.drop ts.length }

/-- The state with command `i` handed to the host (43_dispatch.md R336). -/
def withCommand (fromLe : Bool) (i : Nat) (tokens : List (List Byte)) (s : State) : State :=
  { s with
    dp.pending := true
    dp.cmdIndex := i
    dp.fromLe := fromLe
    g.handoffs := s.g.handoffs ++ [{ index := i, argc := tokens.length, tokens := tokens }] }

/-- The bytes the tokens stand for. -/
def tokenTexts (m : Memory) (ts : List (Nat × Nat)) : List (List Byte) := ts.map fun p => m.slice p.1 p.2

/-! ## Answers -/

/-- The request was answered by the word `w`, and nothing else happened. -/
def answer (w : Word) (s : State) : State :=
  { s with
    rsp := some w
    g.rsplog := s.g.rsplog ++ [w] }

end Sys2Proof.Machine
end

