-- ==== Sys2Proof/Certificates/Slice0/Obligations.lean ====
section
/-! DEFINITION. The statements: what each instruction does, what a step adds around it, and what holds of the
whole machine. -/

open Sys2Proof Sys2Proof.Machine

/-! ## Encoding -/

/-- Words written out from the examples of 30_encoding.md R132 and the rows of R125 and R131 decode to the
instructions they stand for. -/
def Obligations.SpecWordsDecodeToTheirRows : Prop :=
  decodeReq 0x20000041 = .txSend 0x41 ∧ decodeReq 0x3000000D = .leFeed 0x0D
    ∧ decodeReq 0x50010068 = .lineWrPut 1 0x68 ∧ decodeReq 0x50000000 = .lineWrClr
    ∧ decodeReq 0xC0030000 = .status 3 ∧ decodeReq 0xD0010002 = .histRd 1 2
    ∧ decodeReq 0xE0000005 = .reconf 5 ∧ decodeReq 0x00000000 = .nop
    ∧ decodeReq 0xF0000000 = .illegal 0xF0000000 ∧ decodeReq 0x70000000 = .tab
    ∧ decode .le10 false 0x07E = .instr (.leInsert 0x7E) ∧ decode .le10 true 0x07E = .instr (.leOverflow 0x7E)
    ∧ decode .le10 false 0x15B = .instr .leCsiEnter ∧ decode .le10 false 0x244 = .instr .leCurLeft
    ∧ decode .rxPort false 0x161 = .instr (.rxByte 0x61) ∧ decode .txPort false 1 = .instr .txDone

/-- Decoding the word of a well-formed instruction gives it back, with every operand. -/
def Obligations.DecodeOfEncodeIsTheInstruction : Prop :=
  ∀ i : Instr, i.wf = true → decode i.format i.needsFull (encode i) = .instr i

/-- Every word of a format decodes to a well-formed row of that format (30_encoding.md R114, R125). -/
def Obligations.DecodersYieldWellFormedRows : Prop :=
  (∀ w : Word, (decodeReq w).wf = true ∧ (decodeReq w).format = .req32)
    ∧ ∀ (full : Bool) (L : BitVec 10), (decodeLe full L).wf = true ∧ (decodeLe full L).format = .le10

/-- 41_transport.md R212: a word with a reserved bit set, or with op 0xF, answers ILLEGAL and changes
nothing else. -/
def Obligations.RejectedWordsAnswerIllegal : Prop :=
  (∀ (w : Word) (s : State),
    w.extractLsb' 24 4 ≠ 0 ∨ w.extractLsb' 8 8 ≠ 0 ∨ w.extractLsb' 28 4 = 0xF →
      decodeReq w = .illegal w ∧ exec (decodeReq w) s = .next (answer 0x40000000 s))
    ∧ ∀ (w : Word) (s : State), exec (.illegal w) s = .next (answer 0x40000000 s)

/-- 30_encoding.md R111: the reserved fields decide first, and a field the op does not need changes
nothing. -/
def Obligations.UnneededFieldsAreIgnored : Prop :=
  (∀ w : Word, w.extractLsb' 24 4 ≠ 0 ∨ w.extractLsb' 8 8 ≠ 0 →
      decodeReq w = .illegal w ∧ ∀ s, exec (decodeReq w) s = .next (answer 0x40000000 s))
    ∧ ∀ (op : BitVec 4) (a d a' d' : Byte),
      (op ∈ [0x0, 0x1, 0x4, 0x6, 0x7, 0xA, 0xB] → decodeReq (encodeReq op a d) = decodeReq (encodeReq op a' d'))
        ∧ (op ∈ [0x2, 0x3, 0x8, 0x9, 0xE] → decodeReq (encodeReq op a d) = decodeReq (encodeReq op a' d))
        ∧ (op = 0xC → decodeReq (encodeReq op a d) = decodeReq (encodeReq op a d'))
        ∧ (op = 0x5 → decodeReq (encodeReq op 0 d) = decodeReq (encodeReq op 0 d'))
        ∧ (op = 0x5 → 2 ≤ a.toNat →
            ∀ s, exec (decodeReq (encodeReq op a d)) s = exec (decodeReq (encodeReq op a d')) s)

/-- 30_encoding.md R125: the line editor's transition table, by escape state and byte range. -/
def Obligations.EditorDecodeFollowsTheTable : Prop :=
  ∀ (full : Bool) (b : Byte),
    (b = 0x1B → decodeLe full ((0 : BitVec 2) ++ b) = .leEscEnter)
      ∧ (b = 0x0D → decodeLe full ((0 : BitVec 2) ++ b) = .leEnter)
      ∧ (b = 0x7F ∨ b = 0x08 → decodeLe full ((0 : BitVec 2) ++ b) = .leBackspace b)
      ∧ (0x20 ≤ b.toNat → b.toNat ≤ 0x7E →
          decodeLe full ((0 : BitVec 2) ++ b) = if full then .leOverflow b else .leInsert b)
      ∧ (b.toNat ≤ 0x07 ∨ (0x09 ≤ b.toNat ∧ b.toNat ≤ 0x0C) ∨ (0x0E ≤ b.toNat ∧ b.toNat ≤ 0x1A)
          ∨ (0x1C ≤ b.toNat ∧ b.toNat ≤ 0x1F) ∨ 0x80 ≤ b.toNat →
          decodeLe full ((0 : BitVec 2) ++ b) = .leIgnore b)
      ∧ (b = 0x5B → decodeLe full ((1 : BitVec 2) ++ b) = .leCsiEnter)
      ∧ (b ≠ 0x5B → decodeLe full ((1 : BitVec 2) ++ b) = .leEscDrop b)
      ∧ (b = 0x41 → decodeLe full ((2 : BitVec 2) ++ b) = .leHistPrev)
      ∧ (b = 0x42 → decodeLe full ((2 : BitVec 2) ++ b) = .leHistNext)
      ∧ (b = 0x43 → decodeLe full ((2 : BitVec 2) ++ b) = .leCurRight)
      ∧ (b = 0x44 → decodeLe full ((2 : BitVec 2) ++ b) = .leCurLeft)
      ∧ (b.toNat < 0x41 ∨ 0x44 < b.toNat → decodeLe full ((2 : BitVec 2) ++ b) = .leCsiDrop b)

/-! ## A step -/

/-- The tick the environment offers runs the instruction its word or event is, after the phases of its
domain (41_transport.md R201, R206, R210); a TX_DONE that finds the engine idle leaves the tick to the idle
start (R207). Two clauses are the model's choice: a RECONF step runs the phases of Core's domain alone (log 8),
and when nothing is offered an input-less tick of the domain the free value names runs (log 2). -/
def Obligations.StepRunsTheOfferedInstruction : Prop :=
  ∀ (s : State) (rest : List Tick),
    (∀ w, s.env = .core (some w) :: rest → step s = exec (decodeReq w) (corePhases { s with env := rest }))
      ∧ (∀ b, s.env = .rx (some b) :: rest → step s = exec (.rxByte b) (rxPhases { s with env := rest }))
      ∧ (s.env = .tx true :: rest → s.te.busy = true →
          step s = exec .txDone (txPhases { s with env := rest }))
      ∧ (s.env = .tx true :: rest → s.te.busy = false →
          exec .txDone (txPhases { s with env := rest }) = .next (txPhases { s with env := rest })
            ∧ step s = .next (idleStart (txPhases { s with env := rest })))
      ∧ (s.env = .core none :: rest → step s = .next (corePhases { s with env := rest }))
      ∧ (s.env = .rx none :: rest → step s = .next (rxPhases { s with env := rest }))
      ∧ (s.env = .tx false :: rest → step s = .next (idleStart (txPhases { s with env := rest })))
      ∧ (s.env = [] →
          step s = runTick (idleTick (Config.freeAgent s.draws)) { s with draws := s.draws + 1 })

/-- 40_fifo_cdc.md R161: in every tick of its domain, offered or not, a synchronizer shifts, whatever the tick's
event or request does; a RECONF with a valid rate code then clears `TE.busy_sync` (41_transport.md R230). -/
def Obligations.SynchronizersShiftInEveryTick : Prop :=
  ∀ s t : State, step s = .next t →
    match nextTick s with
    | .core req =>
      t.rx.wsync = (s.rx.wpub :: s.rx.wsync).dropLast
        ∧ t.tx.rsync = (s.tx.rpub :: s.tx.rsync).dropLast
        ∧ t.lapSync = (s.rx.lapErr :: s.lapSync).dropLast
        ∧ ((∀ w d, req = some w → decodeReq w = .reconf d → d ∈ s.cfg.baudRefused) →
            t.te.busySync = (s.te.busy :: s.te.busySync).dropLast)
    | .rx _ => t.rx.rsync = (s.rx.rpub :: s.rx.rsync).dropLast
    | .tx _ =>
      t.tx.wsync = (s.tx.wpub :: s.tx.wsync).dropLast
        ∧ t.te.enSync = (s.te.txEn :: s.te.enSync).dropLast

/-- 10_state.md R32: a field is written only by ticks of its own domain, offered or not, RECONF excepted. -/
def Obligations.DomainsOwnTheirFields : Prop :=
  ∀ s t : State, step s = .next t →
    match nextTick s with
    | .rx _ => coreFields t = coreFields s ∧ txDomFields t = txDomFields s
    | .tx _ => coreFields t = coreFields s ∧ rxDomFields t = rxDomFields s
    | .core req =>
      (∀ w d, req = some w → decodeReq w ≠ .reconf d) →
        rxDomFields t = rxDomFields s ∧ txDomFields t = txDomFields s

/-- Every step completes, no step clears the recorded fault or the race bit, none changes the configuration,
and the observations only grow (60_exceptions.md R386, R389). That a step which raises a fault answers a next
state is the model's reading (log 1), and the log of response words is the model's own (log 9). -/
def Obligations.EveryStepCompletesAndFaultsStay : Prop :=
  ∀ s : State, ∃ t, step s = .next t
    ∧ t.cfg = s.cfg
    ∧ (∀ x, s.g.fault = some x → t.g.fault = some x)
    ∧ (s.g.race = true → t.g.race = true)
    ∧ s.g.txlog <+: t.g.txlog ∧ s.g.handoffs <+: t.g.handoffs ∧ s.g.rsplog <+: t.g.rsplog
    ∧ s.rx.ghost.wabs ≤ t.rx.ghost.wabs ∧ s.tx.ghost.wabs ≤ t.tx.ghost.wabs
    ∧ s.rx.ghost.rabs ≤ t.rx.ghost.rabs ∧ s.tx.ghost.rabs ≤ t.tx.ghost.rabs

/-! ## Reset and the invariant -/

/-- 40_fifo_cdc.md R184, and the other values the spec gives for reset (10_state.md R32 and R60,
70_reset_and_hazards.md R411). The cells the spec leaves unspecified are not stated (log 6). -/
def Obligations.ResetLeavesTheListedValues : Prop :=
  ∀ c : Config,
    let s := State.resetWith c
    (∀ p ∈ [(c.rx, s.rx), (c.tx, s.tx)],
        let f := p.2
        f.wptr = 0 ∧ f.wpub = 0 ∧ f.rptr = 0 ∧ f.rpub = 0 ∧ f.lapErr = false
          ∧ f.rsync = List.replicate c.depth 0 ∧ f.wsync = List.replicate c.depth 0
          ∧ f.ghost.wabs = 0 ∧ f.ghost.rabs = 0 ∧ (∀ i, lookupKey f.ghost.tag i = none)
          ∧ f.leadW p.1 = 0 ∧ f.leadR p.1 = 0)
      ∧ s.lapSync = List.replicate c.depth false
      ∧ s.te.busy = false ∧ s.te.txEn = false
      ∧ s.te.enSync = List.replicate c.depth false ∧ s.te.busySync = List.replicate c.depth false
      ∧ s.baud = c.baudReset
      ∧ s.le.esc = 0 ∧ s.le.len = 0 ∧ s.le.cur = 0
      ∧ s.le.hw = 0 ∧ s.le.hcount = 0 ∧ s.le.hdepth = 0
      ∧ s.dp.dlen = 0 ∧ s.dp.argc = 0 ∧ s.dp.pending = false ∧ s.dp.cmdIndex = 0 ∧ s.dp.fromLe = false
      ∧ s.g.race = false ∧ s.g.txlog = [] ∧ s.g.handoffs = [] ∧ s.g.fault = none

/-- 70_reset_and_hazards.md R413: a configuration is checked before reset, and one that fails any constraint
of 00_scope.md R9 is refused. -/
def Obligations.ResetRefusesIllegalConfigurations : Prop :=
  ∀ c : Config,
    (LegalConfig c → resetUnder c = .next (State.resetWith c))
      ∧ (¬ LegalConfig c → resetUnder c = .refused .configRefused)

/-- The invariant holds after reset under every legal configuration. `LeInv` bounds `LE.hlen` of every slot;
nothing is stored yet, so R61 asks nothing of the slots, and 70_reset_and_hazards.md R411 leaves them
unspecified: this clause is the model's choice and holds by the 0 of log 6 (DESIGN CHOICE). -/
def Obligations.ResetSatisfiesTheInvariant : Prop :=
  ∀ c : Config, LegalConfig c → Inv (State.resetWith c) ∧ HistoryDistinct (State.resetWith c)

/-- Every step keeps the invariant: the pointers are the ghost counts mod 2^PW, the crossing's copies never run
ahead while no fault is recorded, storages stay canonical, and the editor and the dispatcher stay in their
bounds (10_state.md R61). Two clauses are the model's: a copy stands for a value at or behind its counter, not
always one its pointer held (DEDUCED, log 22), and `LE.hlen` is bounded in every slot, stored or not (log 6). -/
def Obligations.EveryStepKeepsTheInvariant : Prop :=
  ∀ s t : State, Inv s → step s = .next t → Inv t

/-- 42_line_editor.md R277 (e): no two adjacent history entries are equal, and every step keeps it so. -/
def Obligations.EveryStepKeepsHistoryDistinct : Prop :=
  ∀ s t : State, Inv s → HistoryDistinct s → step s = .next t → HistoryDistinct t

/-- 70_reset_and_hazards.md R431: a quiescent state is the end of a run. Whatever idle tick comes next, only
the tick's own bookkeeping moves. -/
def Obligations.QuiescentStatesStayQuiescent : Prop :=
  ∀ s : State, Inv s → Quiescent s →
    ∃ t, step s = .next t ∧ Quiescent t
      ∧ t = { s with env := t.env, draws := t.draws, rsp := t.rsp, txStart := t.txStart }

/-! ## Gray code and the FIFO -/

/-- 00_scope.md R20: `bin` inverts `gray`, bit i of `bin(g)` is the XOR of bit i+1 and `g[i]`, and one
increment changes exactly one bit of the gray code, at the wrap too. -/
def Obligations.GrayCodeLaws : Prop :=
  ∀ w : Nat, 1 ≤ w →
    (∀ b, b < 2 ^ w → gray b = b ^^^ (b >>> 1) ∧ gray b < 2 ^ w ∧ bin w (gray b) = b)
      ∧ (∀ g, g < 2 ^ w → bin w g < 2 ^ w ∧ gray (bin w g) = g
          ∧ (bin w g).testBit (w - 1) = g.testBit (w - 1)
          ∧ ∀ i, i + 1 < w → (bin w g).testBit i = ((bin w g).testBit (i + 1) ^^ g.testBit i))
      ∧ ∀ b, b < 2 ^ w → ∃ i < w, gray ((b + 1) % 2 ^ w) = gray b ^^^ 2 ^ i

/-- 40_fifo_cdc.md R160: a published copy moves one gray step a tick, reaches its pointer after
`(p - bin(pub)) mod 2^PW` ticks, and stays there; every tick of the owning domain, offered or not, steps it from
the pointer as it stood before the tick's logic. -/
def Obligations.PublisherMovesOneCodeStep : Prop :=
  (∀ (c : FifoCfg) (p q : Nat), 1 ≤ c.pw → p < 2 ^ c.pw → q < 2 ^ c.pw →
    publish c p (gray q) = (if q = p then gray q else gray ((q + 1) % 2 ^ c.pw))
      ∧ (∀ n ≤ subMod p q (2 ^ c.pw), (publish c p)^[n] (gray q) = gray ((q + n) % 2 ^ c.pw))
      ∧ (∀ n, subMod p q (2 ^ c.pw) ≤ n → (publish c p)^[n] (gray q) = gray p)
      ∧ (publish c p (gray q) = gray q ∨ ∃ i < c.pw, publish c p (gray q) = gray q ^^^ 2 ^ i))
    ∧ ∀ s t : State, step s = .next t →
      match nextTick s with
      | .core _ =>
        t.rx.rpub = publish s.cfg.rx s.rx.rptr s.rx.rpub ∧ t.tx.wpub = publish s.cfg.tx s.tx.wptr s.tx.wpub
      | .rx _ => t.rx.wpub = publish s.cfg.rx s.rx.wptr s.rx.wpub
      | .tx _ => t.tx.rpub = publish s.cfg.tx s.tx.rptr s.tx.rpub

/-- 40_fifo_cdc.md R150: the push writes one cell, tags it and advances the write pointer, whatever the lead;
at lead `2^PW - 1` it also sets the sticky flag. -/
def Obligations.PushWritesOneCell : Prop :=
  ∀ (c : FifoCfg) (b : Byte) (f : Fifo),
    (∀ i, (f.push c b).mem.read i = if i = f.wptr % 2 ^ c.aw then b else f.mem.read i)
      ∧ (∀ i, lookupKey (f.push c b).ghost.tag i
          = if i = f.wptr % 2 ^ c.aw then some f.ghost.wabs else lookupKey f.ghost.tag i)
      ∧ (f.push c b).wptr = (f.wptr + 1) % 2 ^ c.pw
      ∧ (f.push c b).ghost.wabs = f.ghost.wabs + 1
      ∧ (f.push c b).lapErr
          = (f.lapErr || decide (subMod f.wptr (bin c.pw (f.rsync.getLastD 0)) (2 ^ c.pw) = 2 ^ c.pw - 1))
      ∧ f.push c b = { f with
          mem := (f.push c b).mem
          wptr := (f.push c b).wptr
          lapErr := (f.push c b).lapErr
          ghost := { (f.push c b).ghost with rabs := f.ghost.rabs } }

/-- 41_transport.md R200: RX_BYTE pushes the byte, and only a lap raises a fault. That the lapping push goes on and
records the fault if it is the first is 60_exceptions.md R386 in the model's reading (log 1). -/
def Obligations.RxBytePushesTheByte : Prop :=
  ∀ (b : Byte) (s : State),
    (s.rx.leadW s.cfg.rx ≠ 2 ^ s.cfg.rx.pw - 1 →
        exec (.rxByte b) s = .next { s with rx := s.rx.push s.cfg.rx b })
      ∧ (s.rx.leadW s.cfg.rx = 2 ^ s.cfg.rx.pw - 1 →
        exec (.rxByte b) s = .next { s with
          rx := s.rx.push s.cfg.rx b
          g.fault := some (s.g.fault.getD .lapOverrun) })

/-- 41_transport.md R221: TX_SEND pushes its byte, sets the transmit enable and answers OK, 1. That it does so at a
lap too, and records the fault if it is the first, is 60_exceptions.md R386 in the model's reading (log 1). -/
def Obligations.TxSendQueuesTheByte : Prop :=
  ∀ (d : Byte) (s : State),
    (s.tx.leadW s.cfg.tx ≠ 2 ^ s.cfg.tx.pw - 1 →
        exec (.txSend d) s = .next (answer 0x00000001
          { s with tx := s.tx.push s.cfg.tx d, te.txEn := true }))
      ∧ (s.tx.leadW s.cfg.tx = 2 ^ s.cfg.tx.pw - 1 →
        exec (.txSend d) s = .next (answer 0x00000001 { s with
          tx := s.tx.push s.cfg.tx d
          te.txEn := true
          g.fault := some (s.g.fault.getD .lapOverrun) }))

/-- 00_scope.md R19: `emit` does to the state what one TX_SEND for each byte does, in order, but answers nothing;
the last N bytes are what the storage holds, every other cell reads as before, and nothing outside the TX FIFO,
the enable and the fault record changes. -/
def Obligations.EmitPushesInOrder : Prop :=
  (∀ s : State, emit [] s = s)
    ∧ (∀ (b : Byte) (l : List Byte) (s : State),
      ∃ u, exec (.txSend b) s = .next (answer 0x00000001 u) ∧ emit (b :: l) s = emit l u)
    ∧ ∀ (l : List Byte) (s : State), s.cfg.tx.aw ≤ s.cfg.tx.pw →
    (emit l s).tx.wptr = (if l = [] then s.tx.wptr else (s.tx.wptr + l.length) % 2 ^ s.cfg.tx.pw)
      ∧ (emit l s).tx.ghost.wabs = s.tx.ghost.wabs + l.length
      ∧ (emit l s).te.txEn = (s.te.txEn || decide (l ≠ []))
      ∧ (∀ i, i < l.length → l.length ≤ i + 2 ^ s.cfg.tx.aw →
          some ((emit l s).tx.mem.read ((s.tx.wptr + i) % 2 ^ s.cfg.tx.aw)) = l[i]?)
      ∧ (∀ a, (∀ i < l.length, (s.tx.wptr + i) % 2 ^ s.cfg.tx.aw ≠ a) →
          (emit l s).tx.mem.read a = s.tx.mem.read a)
      ∧ emit l s = { s with
          tx := { s.tx with
            mem := (emit l s).tx.mem
            wptr := (emit l s).tx.wptr
            lapErr := (emit l s).tx.lapErr
            ghost := { (emit l s).tx.ghost with rabs := s.tx.ghost.rabs } }
          te.txEn := (emit l s).te.txEn
          g.fault := (emit l s).g.fault }

/-- 40_fifo_cdc.md R170: none on an empty view; otherwise, after the discard of a lead above N, the cell's
byte, or the drawn byte if the cell has been overwritten since (R171, R172), and the read pointer passes it. -/
def Obligations.PopFollowsTheRule : Prop :=
  ∀ (c : FifoCfg) (draw : Byte) (f : Fifo),
    let ws := bin c.pw (f.wsync.getLastD 0)
    let d := subMod ws f.rptr (2 ^ c.pw)
    let rp := if 2 ^ c.aw < d then subMod ws (2 ^ c.aw) (2 ^ c.pw) else f.rptr
    let ra := if 2 ^ c.aw < d then f.ghost.rabs + (d - 2 ^ c.aw) else f.ghost.rabs
    let after := { f with
      rptr := (rp + 1) % 2 ^ c.pw
      ghost := { f.ghost with rabs := ra + 1 } }
    (d = 0 → f.pop c draw = { byte := none, fifo := f, raced := false })
      ∧ (d ≠ 0 → lookupKey f.ghost.tag (rp % 2 ^ c.aw) = some ra →
          f.pop c draw = { byte := some (f.mem.read (rp % 2 ^ c.aw)), fifo := after, raced := false })
      ∧ (d ≠ 0 → lookupKey f.ghost.tag (rp % 2 ^ c.aw) ≠ some ra →
          f.pop c draw = { byte := some draw, fifo := after, raced := true })

/-- 41_transport.md R220: RX_POP answers EMPTY on an empty view and otherwise the popped byte; a raced pop
answers a drawn byte and records the race. -/
def Obligations.RxPopAnswersTheByte : Prop :=
  ∀ s : State,
    let p := s.rx.pop s.cfg.rx (Config.freeByte s.draws)
    (p.byte = none → exec .rxPop s = .next (answer 0x10000000 s))
      ∧ (∀ v, p.byte = some v → p.raced = false →
          exec .rxPop s = .next (answer ((0 : BitVec 24) ++ v) { s with rx := p.fifo }))
      ∧ (∀ v, p.byte = some v → p.raced = true →
          exec .rxPop s = .next (answer ((0 : BitVec 24) ++ v)
            { s with rx := p.fifo, g.race := true, draws := s.draws + 1 }))

/-- 41_transport.md R203: TX_DONE is ignored by an idle engine; a busy one pops the next byte and starts it, or
finds the FIFO empty and goes idle. -/
def Obligations.TxDoneDrivesTheChain : Prop :=
  ∀ s : State,
    let p := s.tx.pop s.cfg.tx (Config.freeByte s.draws)
    (s.te.busy = false → exec .txDone s = .next s)
      ∧ (s.te.busy = true → p.byte = none → exec .txDone s = .next { s with te.busy := false })
      ∧ (∀ v, s.te.busy = true → p.byte = some v → p.raced = false →
          exec .txDone s = .next { s with
            tx := p.fifo, te.inflight := v, te.busy := true, txStart := some v
            g.txlog := s.g.txlog ++ [v] })
      ∧ (∀ v, s.te.busy = true → p.byte = some v → p.raced = true →
          exec .txDone s = .next { s with
            tx := p.fifo, te.inflight := v, te.busy := true, txStart := some v
            g.txlog := s.g.txlog ++ [v], g.race := true, draws := s.draws + 1 })

/-- 41_transport.md R204: in a TxDom tick without TX_DONE, or whose TX_DONE finds the engine idle (R206), an
idle and enabled engine that sees a byte starts it; otherwise the tick only shifts and publishes. -/
def Obligations.IdleEngineStartsTheNextByte : Prop :=
  ∀ (s : State) (done : Bool) (rest : List Tick), s.env = .tx done :: rest → (done = true → s.te.busy = false) →
    let u := txPhases { s with env := rest }
    let p := u.tx.pop u.cfg.tx (Config.freeByte u.draws)
    (u.te.busy = true ∨ u.te.enSync.getLastD false = false ∨ p.byte = none → step s = .next u)
      ∧ (∀ v, u.te.busy = false → u.te.enSync.getLastD false = true → p.byte = some v → p.raced = false →
          step s = .next { u with
            tx := p.fifo, te.inflight := v, te.busy := true, txStart := some v
            g.txlog := u.g.txlog ++ [v] })
      ∧ (∀ v, u.te.busy = false → u.te.enSync.getLastD false = true → p.byte = some v → p.raced = true →
          step s = .next { u with
            tx := p.fifo, te.inflight := v, te.busy := true, txStart := some v
            g.txlog := u.g.txlog ++ [v], g.race := true, draws := u.draws + 1 })

/-- 40_fifo_cdc.md R180, R181, R183 (a): while no fault is recorded the write side's view errs high and the
read side's errs low, and no count passes N. -/
def Obligations.ViewsBracketTheTrueCount : Prop :=
  ∀ (s : State) (c : FifoCfg) (f : Fifo), Inv s → s.g.fault = none →
    (c, f) ∈ [(s.cfg.rx, s.rx), (s.cfg.tx, s.tx)] →
      f.leadR c ≤ f.ghost.wabs - f.ghost.rabs ∧ f.ghost.wabs - f.ghost.rabs ≤ f.leadW c
        ∧ f.countR c ≤ f.absCount c ∧ f.absCount c ≤ f.countW c ∧ f.countW c ≤ 2 ^ c.aw
        ∧ (f.absFull c = true → f.fullW c = true) ∧ (f.emptyW c = true → f.absCount c = 0)
        ∧ (f.fullR c = true → f.absFull c = true) ∧ (f.absCount c = 0 → f.emptyR c = true)

/-- 10_state.md R41: the source's count is N when full and `(head - tail) mod N` otherwise, and the contents
are that many bytes. -/
def Obligations.SourceCountFormulaHolds : Prop :=
  ∀ (s : State) (c : FifoCfg) (f : Fifo), Inv s → (c, f) ∈ [(s.cfg.rx, s.rx), (s.cfg.tx, s.tx)] →
    f.absCount c = (if f.absFull c then 2 ^ c.aw else subMod (f.absHead c) (f.absTail c) (2 ^ c.aw))
      ∧ (f.contents c).length = f.absCount c

/-- 40_fifo_cdc.md R172: while no fault is recorded, the cell a pop is about to read has been overwritten
exactly when the true lead, after any discard, exceeds N. -/
def Obligations.RaceExactlyWhenLeadExceedsCapacity : Prop :=
  ∀ (s : State) (c : FifoCfg) (f : Fifo) (draw : Byte), Inv s → s.g.fault = none →
    (c, f) ∈ [(s.cfg.rx, s.rx), (s.cfg.tx, s.tx)] → f.leadR c ≠ 0 →
      ((f.pop c draw).raced = true ↔ 2 ^ c.aw < f.ghost.wabs - ((f.pop c draw).fifo.ghost.rabs - 1))

/-- 40_fifo_cdc.md R183 (c), (d): push at most `2^PW - 1` bytes into an empty FIFO with the read side idle, let
its view catch up, and pop: the last N bytes pushed come out in order, then none. -/
def Obligations.DrainYieldsTheLastBytesPushed : Prop :=
  ∀ (c : FifoCfg) (draw : Byte) (f : Fifo) (bytes : List Byte), LegalFifo c →
    f.wptr = f.ghost.wabs % 2 ^ c.pw → f.rptr = f.wptr → f.ghost.rabs = f.ghost.wabs → f.wsync ≠ [] →
    bytes.length ≤ 2 ^ c.pw - 1 →
      (f.pushAll c bytes).caughtUp.popMany c draw (min bytes.length (2 ^ c.aw) + 1)
        = (bytes.drop (bytes.length - 2 ^ c.aw)).map some ++ [none]

/-! ## Transport requests -/

/-- 41_transport.md R211: NOP answers OK, 0, and its tick has the effect of a Core tick without a request. -/
def Obligations.NopAnswersOk : Prop :=
  (∀ s : State, exec .nop s = .next (answer 0x00000000 s))
    ∧ ∀ (s u : State) (w : Word) (rest : List Tick), decodeReq w = .nop →
      s.env = .core (some w) :: rest → step { s with env := .core none :: rest } = .next u →
        step s = .next (answer 0x00000000 u)

/-- 41_transport.md R224 with the payloads of 30_encoding.md R122: each selector's bits, all others 0, and
RANGE from 7 on. -/
def Obligations.StatusReportsTheSelectedFields : Prop :=
  ∀ s : State, LegalConfig s.cfg →
    (∃ w, exec (.status 0) s = .next (answer w s)
        ∧ w.getLsbD 0 = s.dp.pending ∧ w.getLsbD 1 = s.te.busySync.getLastD false
        ∧ w.getLsbD 2 = s.lapSync.getLastD false ∧ w.getLsbD 3 = s.tx.lapErr
        ∧ w.extractLsb' 4 2 = s.le.esc ∧ w.getLsbD 6 = s.te.txEn ∧ w.extractLsb' 7 25 = 0)
      ∧ (∃ w, exec (.status 1) s = .next (answer w s)
        ∧ w.toNat = min (2 ^ s.cfg.rx.aw)
            (subMod (bin s.cfg.rx.pw (s.rx.wsync.getLastD 0)) s.rx.rptr (2 ^ s.cfg.rx.pw)))
      ∧ (∃ w, exec (.status 2) s = .next (answer w s)
        ∧ w.toNat = min (2 ^ s.cfg.tx.aw)
            (subMod s.tx.wptr (bin s.cfg.tx.pw (s.tx.rsync.getLastD 0)) (2 ^ s.cfg.tx.pw)))
      ∧ (∃ w, exec (.status 3) s = .next (answer w s)
        ∧ w.extractLsb' 0 8 = BitVec.ofNat 8 s.le.cur ∧ w.extractLsb' 8 8 = BitVec.ofNat 8 s.le.len
        ∧ w.extractLsb' 16 16 = 0)
      ∧ (∃ w, exec (.status 4) s = .next (answer w s)
        ∧ w.extractLsb' 0 8 = BitVec.ofNat 8 s.le.hdepth ∧ w.extractLsb' 8 8 = BitVec.ofNat 8 s.le.hcount
        ∧ w.extractLsb' 16 8 = BitVec.ofNat 8 s.le.hw ∧ w.extractLsb' 24 8 = 0)
      ∧ exec (.status 5) s = .next (answer ((0 : BitVec 24) ++ s.baud) s)
      ∧ (∃ w, exec (.status 6) s = .next (answer w s)
        ∧ w.extractLsb' 0 8 = BitVec.ofNat 8 s.dp.argc ∧ w.extractLsb' 8 8 = BitVec.ofNat 8 s.dp.dlen
        ∧ w.extractLsb' 16 16 = 0)
      ∧ ∀ a : Byte, 7 ≤ a.toNat → exec (.status a) s = .next (answer 0x30000000 s)

/-- 41_transport.md R231: a rate code that BAUD_VALID refuses fails before any quiesce, and no state
changes. -/
def Obligations.ReconfRefusesAnInvalidRate : Prop :=
  ∀ (d : Byte) (s : State), d ∈ s.cfg.baudRefused →
    exec (.reconf d) s = .next (answer ((0x5 : BitVec 4) ++ (0 : BitVec 20) ++ s.baud) s)

/-- 41_transport.md R230, R233: with a valid rate code the TX engine and its synchronizers are cleared; then,
by the drawn init result, the rate code is taken and OK answered, or kept and FAIL answered. The result is a
free value (R388), so both branches are the claim. -/
def Obligations.ReconfQuiescesThenReinitializes : Prop :=
  ∀ (d : Byte) (s : State), d ∉ s.cfg.baudRefused →
    let q := { s with
      te.busy := false
      te.txEn := false
      te.enSync := List.replicate s.cfg.depth false
      te.busySync := List.replicate s.cfg.depth false
      draws := s.draws + 1 }
    exec (.reconf d) s = .next
      (if Config.freeInitOk s.draws then answer ((0 : BitVec 24) ++ d) { q with baud := d }
        else answer ((0x5 : BitVec 4) ++ (0 : BitVec 20) ++ s.baud) q)

/-! ## Dispatch requests -/

/-- 43_dispatch.md R320: LINE_WR.CLR empties the dispatch line, or answers BUSY. -/
def Obligations.LineWrClrEmptiesTheLine : Prop :=
  ∀ s : State,
    (s.dp.pending = true → exec .lineWrClr s = .next (answer 0x20000000 s))
      ∧ (s.dp.pending = false → exec .lineWrClr s = .next (answer 0x00000000 { s with dp.dlen := 0 }))

/-- 43_dispatch.md R321: LINE_WR.PUT answers RANGE for a sub-operation of 2 or more, then BUSY, then FULL;
otherwise it appends its byte, and every other cell reads as before. -/
def Obligations.LineWrPutAppendsOneByte : Prop :=
  ∀ (a d : Byte) (s : State),
    (2 ≤ a.toNat →
        exec (.lineWrPut a d) s
          = .next (answer ((0x3 : BitVec 4) ++ (0 : BitVec 20) ++ BitVec.ofNat 8 s.dp.dlen) s))
      ∧ (a.toNat < 2 → s.dp.pending = true → exec (.lineWrPut a d) s = .next (answer 0x20000000 s))
      ∧ (a.toNat < 2 → s.dp.pending = false → s.dp.dlen = s.cfg.maxLen - 1 →
        exec (.lineWrPut a d) s
          = .next (answer ((0x6 : BitVec 4) ++ (0 : BitVec 20) ++ BitVec.ofNat 8 s.dp.dlen) s))
      ∧ (a.toNat < 2 → s.dp.pending = false → s.dp.dlen ≠ s.cfg.maxLen - 1 →
        ∃ m : Memory, (∀ i, m.read i = if i = s.dp.dlen then d else s.dp.dline.read i)
          ∧ exec (.lineWrPut a d) s
            = .next (answer ((0 : BitVec 24) ++ BitVec.ofNat 8 (s.dp.dlen + 1))
                { s with dp.dline := m, dp.dlen := s.dp.dlen + 1 }))

/-- 43_dispatch.md R322: LINE_RD answers the length and the byte, or RANGE and the length. -/
def Obligations.LineRdReadsOneByte : Prop :=
  ∀ (d : Byte) (s : State),
    (s.dp.dlen ≤ d.toNat →
        exec (.lineRd d) s
          = .next (answer ((0x3 : BitVec 4) ++ (0 : BitVec 12) ++ BitVec.ofNat 8 s.dp.dlen ++ (0 : BitVec 8)) s))
      ∧ (d.toNat < s.dp.dlen →
        exec (.lineRd d) s
          = .next (answer ((0 : BitVec 16) ++ BitVec.ofNat 8 s.dp.dlen ++ s.dp.dline.read d.toNat) s))

/-- 43_dispatch.md R350: TOK_RD answers argc, the token's length and its start, or RANGE and argc. -/
def Obligations.TokRdReadsOneToken : Prop :=
  ∀ (d : Byte) (s : State),
    (s.dp.argc ≤ d.toNat →
        exec (.tokRd d) s
          = .next (answer ((0x3 : BitVec 4) ++ (0 : BitVec 4) ++ BitVec.ofNat 8 s.dp.argc ++ (0 : BitVec 16)) s))
      ∧ (d.toNat < s.dp.argc →
        exec (.tokRd d) s
          = .next (answer ((0 : BitVec 8) ++ BitVec.ofNat 8 s.dp.argc
              ++ BitVec.ofNat 8 (s.dp.tokLen.getD d.toNat 0)
              ++ BitVec.ofNat 8 (s.dp.tokStart.getD d.toNat 0)) s))

/-- 43_dispatch.md R351: CMD_STAT answers from_le in bit 25, pending in bit 24, argc and the command index. -/
def Obligations.CmdStatReadsTheHandOff : Prop :=
  ∀ s : State, ∃ w, exec .cmdStat s = .next (answer w s)
    ∧ w.getLsbD 25 = s.dp.fromLe ∧ w.getLsbD 24 = s.dp.pending
    ∧ w.extractLsb' 8 8 = BitVec.ofNat 8 s.dp.argc ∧ w.extractLsb' 0 8 = BitVec.ofNat 8 s.dp.cmdIndex
    ∧ w.extractLsb' 16 8 = 0 ∧ w.extractLsb' 26 6 = 0

/-- 43_dispatch.md R355: CMD_DONE ends a pending hand-off, emits the prompt if the line editor started it, and
answers whether one was pending. -/
def Obligations.CmdDoneEndsTheHandOff : Prop :=
  ∀ s : State,
    (s.dp.pending = false → exec .cmdDone s = .next (answer 0x00000000 s))
      ∧ (s.dp.pending = true → s.dp.fromLe = false →
        exec .cmdDone s = .next (answer 0x00000001 { s with dp.pending := false }))
      ∧ (s.dp.pending = true → s.dp.fromLe = true →
        exec .cmdDone s = .next (answer 0x00000001 (emit s.cfg.prompt { s with dp.pending := false })))

/-- 43_dispatch.md R331: an accepted EXEC keeps as tokens the first K maximal runs of bytes other than 0x20. -/
def Obligations.TokensAreTheFirstMaximalRuns : Prop :=
  ∀ (s : State), s.dp.pending = false →
    ∃ t ts, exec .execLine s = .next t ∧ MaximalRuns (dispatchLine s) ts
      ∧ t.dp.argc = min s.cfg.maxTok ts.length
      ∧ (∀ k < t.dp.argc, ∀ p, ts[k]? = some p → t.dp.tokStart[k]? = some p.1 ∧ t.dp.tokLen[k]? = some p.2)
      ∧ ∀ k, t.dp.argc ≤ k → t.dp.tokStart[k]? = s.dp.tokStart[k]? ∧ t.dp.tokLen[k]? = s.dp.tokLen[k]?

/-- 43_dispatch.md R336, R337: EXEC answers BUSY while a command is pending; otherwise without a token it is a no-op,
with a first token that is no name it emits the diagnostic, and with a name it hands the command to the host. -/
def Obligations.ExecRunsTheDispatchLine : Prop :=
  (∀ s : State, s.dp.pending = true → exec .execLine s = .next (answer 0x20000000 s))
    ∧ ∀ (s : State) (ts : List (Nat × Nat)), s.dp.pending = false →
    ts = (scanTokens (dispatchLine s) 0 none).take s.cfg.maxTok →
    let n := BitVec.ofNat 8 ts.length
    (ts = [] → exec .execLine s = .next (answer 0x00000000 (withTokens [] s)))
      ∧ (∀ st ln rest, ts = (st, ln) :: rest → (∀ i, ¬ FirstNamed s.cfg.cmdTable (s.dp.dline.slice st ln) i) →
        exec .execLine s = .next (answer ((0x01 : BitVec 8) ++ (0 : BitVec 8) ++ n ++ (0 : BitVec 8))
          (emit s.cfg.msgUnknown (withTokens ts s))))
      ∧ ∀ st ln rest i, ts = (st, ln) :: rest → FirstNamed s.cfg.cmdTable (s.dp.dline.slice st ln) i →
        exec .execLine s = .next (answer ((0x02 : BitVec 8) ++ (0 : BitVec 8) ++ n ++ BitVec.ofNat 8 i)
          (withCommand false i (tokenTexts s.dp.dline ts) (withTokens ts s)))

/-- 43_dispatch.md R342: when a name is a prefix of the partial, TAB puts `"<name> help"` in the dispatch line
and hands that name's command to the host. Two clauses are the model's reading: with K = 1 the tokenizer keeps one
token of the two (R331, log 18), and the cells past the new line keep their bytes (log 15). -/
def Obligations.TabShowsHelpForACompleteName : Prop :=
  ∀ (s : State) (i : Nat) (nm : List Byte), LegalConfig s.cfg → s.dp.pending = false → s.dp.dlen ≠ 0 →
    s.cfg.cmdTable[i]? = some nm → FirstPrefixOf s.cfg.cmdTable (dispatchLine s) i →
      ∃ t u, exec .tab s = .next t
        ∧ t = answer ((0x02 : BitVec 8) ++ (0 : BitVec 8) ++ (0x01 : BitVec 8) ++ BitVec.ofNat 8 i) u
        ∧ dispatchLine u = nm ++ [0x20, 0x68, 0x65, 0x6C, 0x70]
        ∧ (∀ a, nm.length + 5 ≤ a → u.dp.dline.read a = s.dp.dline.read a)
        ∧ u.dp.pending = true ∧ u.dp.cmdIndex = i ∧ u.dp.fromLe = false ∧ u.dp.argc = min s.cfg.maxTok 2
        ∧ u.dp.tokStart = [0, nm.length + 1].take s.cfg.maxTok ++ s.dp.tokStart.drop u.dp.argc
        ∧ u.dp.tokLen = [nm.length, 4].take s.cfg.maxTok ++ s.dp.tokLen.drop u.dp.argc
        ∧ u.g.handoffs = s.g.handoffs
            ++ [{ index := i, argc := u.dp.argc, tokens := [nm, [0x68, 0x65, 0x6C, 0x70]].take s.cfg.maxTok }]
        ∧ u = { s with dp := u.dp, g.handoffs := u.g.handoffs }

/-- 43_dispatch.md R340, R341, R343, R344: TAB answers BUSY while a command is pending. An empty partial is NoMatch, with no output and no change. When no name is a
prefix of the partial, the candidates are the names that properly extend it, in table order: none is NoMatch,
one completes the dispatch line, more are listed. That the cells past a completed name keep their bytes is the
model's reading (log 15). -/
def Obligations.TabCompletesByPrefix : Prop :=
  (∀ s : State, s.dp.pending = true → exec .tab s = .next (answer 0x20000000 s))
    ∧ (∀ s : State, s.dp.pending = false → s.dp.dlen = 0 → exec .tab s = .next (answer 0x00000000 s))
    ∧ ∀ (s : State) (cs : List Nat), s.dp.pending = false → s.dp.dlen ≠ 0 →
    (∀ i, ¬ FirstPrefixOf s.cfg.cmdTable (dispatchLine s) i) →
    cs.Pairwise (· < ·) →
    (∀ i, i ∈ cs ↔ ∃ nm, s.cfg.cmdTable[i]? = some nm ∧ dispatchLine s <+: nm) →
      (cs = [] → exec .tab s = .next (answer 0x00000000 s))
        ∧ (∀ i nm, cs = [i] → s.cfg.cmdTable[i]? = some nm →
          ∃ m : Memory, m.slice 0 nm.length = nm
            ∧ (∀ a, nm.length ≤ a → m.read a = s.dp.dline.read a)
            ∧ exec .tab s = .next (answer
                ((0x01 : BitVec 8) ++ (0 : BitVec 8) ++ (0x01 : BitVec 8) ++ BitVec.ofNat 8 i)
                { s with dp.dline := m, dp.dlen := nm.length }))
        ∧ (2 ≤ cs.length →
          exec .tab s = .next (answer
            ((0x03 : BitVec 8) ++ (0 : BitVec 8) ++ BitVec.ofNat 8 (min cs.length 255) ++ (0 : BitVec 8))
            (emit (s.cfg.newline
              ++ (cs.map fun i => s.cfg.cmdTable.getD i [] ++ s.cfg.newline).flatten) s)))

/-! ## The line editor -/

/-- 42_line_editor.md R250: LE_FEED answers BUSY while a command is pending; otherwise it runs the action the table
selects, and answers its code (`ActionCodesFollowTheTable` says which number) and the escape state after it. -/
def Obligations.FeedRunsTheSelectedAction : Prop :=
  (∀ (s : State) (d : Byte), s.dp.pending = true → exec (.leFeed d) s = .next (answer 0x20000000 s))
    ∧ ∀ (s : State) (d : Byte), s.dp.pending = false → s.le.esc ≠ 3 →
    ∃ act code t,
      act = decodeLeAct (decide (s.le.len = s.cfg.maxLen - 1)) (s.le.esc ++ d)
        ∧ actionCode act = some code ∧ exec (act.toInstr d) s = .next t
        ∧ exec (.leFeed d) s
          = .next (answer ((0 : BitVec 4) ++ code ++ (0 : BitVec 6) ++ t.le.esc ++ (0 : BitVec 16)) t)

/-- 42_line_editor.md R251: POLL answers BUSY and pops nothing while a command is pending; otherwise it answers EMPTY
when Core's view of the RX FIFO is empty, or pops one byte and runs the action it selects, whose code is as for
LE_FEED. -/
def Obligations.PollFeedsThePoppedByte : Prop :=
  (∀ s : State, s.dp.pending = true → exec .poll s = .next (answer 0x20000000 s))
    ∧ ∀ s : State, s.dp.pending = false →
    (s.rx.leadR s.cfg.rx = 0 → exec .poll s = .next (answer 0x10000000 s))
      ∧ (s.rx.leadR s.cfg.rx ≠ 0 → s.le.esc ≠ 3 →
        ∃ v u act code t, popRx s = (some v, u)
          ∧ act = decodeLeAct (decide (s.le.len = s.cfg.maxLen - 1)) (s.le.esc ++ v)
          ∧ actionCode act = some code ∧ exec (act.toInstr v) u = .next t
          ∧ exec .poll s
            = .next (answer ((0 : BitVec 4) ++ code ++ (0 : BitVec 6) ++ t.le.esc ++ (0 : BitVec 8) ++ v) t))

/-- 30_encoding.md R126, 60_exceptions.md R386: in escape state 3 the editor's step records the model fault and
does nothing else. That LE_FEED and POLL then answer OK, with a free action code of R119's range, is the model's
choice (log 4), and that the step goes on is its reading (log 1). -/
def Obligations.EscapeStateThreeRecordsTheFault : Prop :=
  ∀ (s : State) (b : Byte) (full : Bool),
    decodeLe full ((3 : BitVec 2) ++ b) = .leIllegalEscState b
      ∧ exec (.leIllegalEscState b) s
        = .next { s with g.fault := some (s.g.fault.getD .illegalEscState) }
      ∧ (s.dp.pending = false → s.le.esc = 3 →
        ∃ code : BitVec 4, code.toNat ≤ 12 ∧ exec (.leFeed b) s
          = .next (answer ((0 : BitVec 4) ++ code ++ (0 : BitVec 6) ++ (3 : BitVec 2) ++ (0 : BitVec 16))
              { s with
                g.fault := some (s.g.fault.getD .illegalEscState)
                draws := s.draws + 1 }))
      ∧ (∀ v u, s.dp.pending = false → s.le.esc = 3 → popRx s = (some v, u) →
        ∃ code : BitVec 4, code.toNat ≤ 12 ∧ exec .poll s
          = .next (answer ((0 : BitVec 4) ++ code ++ (0 : BitVec 6) ++ (3 : BitVec 2) ++ (0 : BitVec 8) ++ v)
              { u with
                g.fault := some (u.g.fault.getD .illegalEscState)
                draws := u.draws + 1 }))

/-- 42_line_editor.md R252: a byte leaves the editor in Normal, but for ESC in Normal and `[` in Escape. -/
def Obligations.EditorReturnsToNormal : Prop :=
  ∀ (s : State) (d : Byte), s.dp.pending = false → s.le.esc ≠ 3 →
    ∃ t, exec (.leFeed d) s = .next t
      ∧ t.le.esc = if s.le.esc = 0 ∧ d = 0x1B then 1 else if s.le.esc = 1 ∧ d = 0x5B then 2 else 0

/-- 42_line_editor.md R260, R261, R266, R267, R272: these actions move the escape state, or nothing. -/
def Obligations.EscapeBytesMoveOnlyTheEscapeState : Prop :=
  ∀ (b : Byte) (s : State),
    exec (.leIgnore b) s = .next s
      ∧ exec .leEscEnter s = .next { s with le.esc := 1 }
      ∧ exec (.leEscDrop b) s = .next { s with le.esc := 0 }
      ∧ exec .leCsiEnter s = .next { s with le.esc := 2 }
      ∧ exec (.leCsiDrop b) s = .next { s with le.esc := 0 }

/-- 42_line_editor.md R262: ENTER emits the newline, commits a non-empty line that differs from the newest entry,
hands the line to the dispatcher, clears the edit state and executes the line; the prompt follows unless a
command was handed off. -/
def Obligations.EnterFinalizesTheLine : Prop :=
  ∀ (s : State) (ts : List (Nat × Nat)), Inv s →
    ts = (scanTokens (editLine s) 0 none).take s.cfg.maxTok →
    ∃ t bytes, exec .leEnter s = .next t
      ∧ dispatchLine t = editLine s ∧ t.dp.dlen = s.le.len
      ∧ (∀ a, s.le.len ≤ a → t.dp.dline.read a = s.dp.dline.read a)
      ∧ t.le.len = 0 ∧ t.le.cur = 0 ∧ t.le.hdepth = 0 ∧ t.le.esc = s.le.esc ∧ t.le.buf = s.le.buf
      ∧ (s.le.len = 0 ∨ (0 < s.le.hcount ∧ histLine (slotBack 1 s) s = editLine s) →
          t.le.hist = s.le.hist ∧ t.le.hlen = s.le.hlen ∧ t.le.hw = s.le.hw ∧ t.le.hcount = s.le.hcount)
      ∧ (s.le.len ≠ 0 → ¬ (0 < s.le.hcount ∧ histLine (slotBack 1 s) s = editLine s) →
          histLine s.le.hw t = editLine s
            ∧ (∀ j, j ≠ s.le.hw → histMem j t = histMem j s ∧ histLen j t = histLen j s)
            ∧ (∀ a, s.le.len ≤ a → (histMem s.le.hw t).read a = (histMem s.le.hw s).read a)
            ∧ t.le.hw = (s.le.hw + 1) % s.cfg.hist ∧ t.le.hcount = min (s.le.hcount + 1) s.cfg.hist)
      ∧ t.dp.argc = ts.length
      ∧ t.dp.tokStart = ts.map Prod.fst ++ s.dp.tokStart.drop ts.length
      ∧ t.dp.tokLen = ts.map Prod.snd ++ s.dp.tokLen.drop ts.length
      ∧ (ts = [] → bytes = s.cfg.newline ++ s.cfg.prompt)
      ∧ (∀ st ln rest, ts = (st, ln) :: rest → (∀ i, ¬ FirstNamed s.cfg.cmdTable (s.le.buf.slice st ln) i) →
          bytes = s.cfg.newline ++ s.cfg.msgUnknown ++ s.cfg.prompt)
      ∧ ((∀ st ln rest i, ts = (st, ln) :: rest → ¬ FirstNamed s.cfg.cmdTable (s.le.buf.slice st ln) i) →
          t.dp.pending = s.dp.pending ∧ t.dp.cmdIndex = s.dp.cmdIndex ∧ t.dp.fromLe = s.dp.fromLe
            ∧ t.g.handoffs = s.g.handoffs)
      ∧ (∀ st ln rest i, ts = (st, ln) :: rest → FirstNamed s.cfg.cmdTable (s.le.buf.slice st ln) i →
          bytes = s.cfg.newline ∧ t.dp.pending = true ∧ t.dp.cmdIndex = i ∧ t.dp.fromLe = true
            ∧ t.g.handoffs = s.g.handoffs
                ++ [{ index := i, argc := ts.length, tokens := tokenTexts s.le.buf ts }])
      ∧ t = { emit bytes s with le := t.le, dp := t.dp, g.handoffs := t.g.handoffs }

/-- 42_line_editor.md R263: BACKSPACE at cursor 0 does nothing; otherwise it deletes the byte before the cursor,
zeroes the vacated cell and repaints. -/
def Obligations.BackspaceDeletesBeforeTheCursor : Prop :=
  ∀ (b : Byte) (s : State), Inv s →
    (s.le.cur = 0 → exec (.leBackspace b) s = .next s)
      ∧ (s.le.cur ≠ 0 →
        ∃ m : Memory,
          m.slice 0 (s.le.len - 1) = (editLine s).take (s.le.cur - 1) ++ (editLine s).drop s.le.cur
            ∧ m.read (s.le.len - 1) = 0
            ∧ (∀ a, s.le.len ≤ a → m.read a = s.le.buf.read a)
            ∧ exec (.leBackspace b) s = .next (emit
                ([0x08] ++ (editLine s).drop s.le.cur ++ [0x20, 0x08] ++ List.replicate (s.le.len - s.le.cur) 0x08)
                { s with le.buf := m, le.len := s.le.len - 1, le.cur := s.le.cur - 1 }))

/-- 42_line_editor.md R264: on a line with room, INSERT puts its byte at the cursor, echoes it with the shifted
tail, and moves back over the tail. -/
def Obligations.InsertPutsTheByteAtTheCursor : Prop :=
  ∀ (b : Byte) (s : State), Inv s → s.le.len ≠ s.cfg.maxLen - 1 →
    ∃ m : Memory,
      m.slice 0 (s.le.len + 1) = (editLine s).take s.le.cur ++ [b] ++ (editLine s).drop s.le.cur
        ∧ (∀ a, s.le.len + 1 ≤ a → m.read a = s.le.buf.read a)
        ∧ exec (.leInsert b) s = .next (emit
            ([b] ++ (editLine s).drop s.le.cur ++ List.replicate (s.le.len - s.le.cur) 0x08)
            { s with le.buf := m, le.len := s.le.len + 1, le.cur := s.le.cur + 1 })

/-- 42_line_editor.md R265: on a full line OVERFLOW discards the line, keeps the history, and emits the diagnostic
and the prompt. -/
def Obligations.OverflowDiscardsTheLine : Prop :=
  ∀ (b : Byte) (s : State), s.le.len = s.cfg.maxLen - 1 →
    exec (.leOverflow b) s = .next (emit (s.cfg.msgOverflow ++ s.cfg.prompt)
      { s with le.len := 0, le.cur := 0, le.hdepth := 0, le.esc := 0 })

/-- 42_line_editor.md R268, R273, R274: below the oldest entry HIST_PREV clears the visible line and loads the
entry one step further back; at the oldest it only returns to Normal. -/
def Obligations.HistPrevLoadsTheOlderEntry : Prop :=
  ∀ s : State, Inv s →
    (s.le.hcount ≤ s.le.hdepth → exec .leHistPrev s = .next { s with le.esc := 0 })
      ∧ (s.le.hdepth < s.le.hcount →
        let j := subMod s.le.hw (s.le.hdepth + 1) s.cfg.hist
        ∃ m : Memory, m.slice 0 (histLen j s) = histLine j s
          ∧ (∀ a, histLen j s ≤ a → m.read a = s.le.buf.read a)
          ∧ exec .leHistPrev s = .next (emit
              (List.replicate s.le.len 0x08 ++ List.replicate s.le.len 0x20 ++ List.replicate s.le.len 0x08
                ++ histLine j s)
              { s with
                le.esc := 0
                le.hdepth := s.le.hdepth + 1
                le.buf := m
                le.len := histLen j s
                le.cur := histLen j s }))

/-- 42_line_editor.md R269, R273, R274: while browsing HIST_NEXT clears the visible line and loads the entry one
step nearer, or the empty line from depth 1; at depth 0 it only returns to Normal. -/
def Obligations.HistNextLoadsTheNewerEntry : Prop :=
  ∀ s : State, Inv s →
    (s.le.hdepth = 0 → exec .leHistNext s = .next { s with le.esc := 0 })
      ∧ (s.le.hdepth = 1 →
        exec .leHistNext s = .next (emit
          (List.replicate s.le.len 0x08 ++ List.replicate s.le.len 0x20 ++ List.replicate s.le.len 0x08)
          { s with le.esc := 0, le.hdepth := 0, le.len := 0, le.cur := 0 }))
      ∧ (2 ≤ s.le.hdepth →
        let j := subMod s.le.hw (s.le.hdepth - 1) s.cfg.hist
        ∃ m : Memory, m.slice 0 (histLen j s) = histLine j s
          ∧ (∀ a, histLen j s ≤ a → m.read a = s.le.buf.read a)
          ∧ exec .leHistNext s = .next (emit
              (List.replicate s.le.len 0x08 ++ List.replicate s.le.len 0x20 ++ List.replicate s.le.len 0x08
                ++ histLine j s)
              { s with
                le.esc := 0
                le.hdepth := s.le.hdepth - 1
                le.buf := m
                le.len := histLen j s
                le.cur := histLen j s }))

/-- 42_line_editor.md R270, R271: the cursor keys move by one cell and echo it, and do nothing at the bounds. -/
def Obligations.CursorKeysMoveOneCell : Prop :=
  ∀ s : State,
    (s.le.cur < s.le.len →
        exec .leCurRight s = .next (emit [s.le.buf.read s.le.cur]
          { s with le.esc := 0, le.cur := s.le.cur + 1 }))
      ∧ (s.le.len ≤ s.le.cur → exec .leCurRight s = .next { s with le.esc := 0 })
      ∧ (0 < s.le.cur →
        exec .leCurLeft s = .next (emit [0x08] { s with le.esc := 0, le.cur := s.le.cur - 1 }))
      ∧ (s.le.cur = 0 → exec .leCurLeft s = .next { s with le.esc := 0 })

/-- 42_line_editor.md R276: HIST_RD answers the entry's length and byte; RANGE and the length past its end; RANGE
alone past the oldest entry. -/
def Obligations.HistRdReadsOneByte : Prop :=
  ∀ (a d : Byte) (s : State),
    let j := subMod s.le.hw (1 + a.toNat) s.cfg.hist
    (s.le.hcount ≤ a.toNat → exec (.histRd a d) s = .next (answer 0x30000000 s))
      ∧ (a.toNat < s.le.hcount → histLen j s ≤ d.toNat →
        exec (.histRd a d) s
          = .next (answer ((0x3 : BitVec 4) ++ (0 : BitVec 12) ++ BitVec.ofNat 8 (histLen j s) ++ (0 : BitVec 8)) s))
      ∧ (a.toNat < s.le.hcount → d.toNat < histLen j s →
        exec (.histRd a d) s
          = .next (answer ((0 : BitVec 16) ++ BitVec.ofNat 8 (histLen j s) ++ (histMem j s).read d.toNat) s))

/-- A BACKSPACE after an INSERT gives the line and the cursor back (42_line_editor.md R277 (c)). -/
def Obligations.BackspaceUndoesInsert : Prop :=
  ∀ (s : State) (b c : Byte), Inv s → s.le.len ≠ s.cfg.maxLen - 1 →
    ∃ t u, exec (.leInsert b) s = .next t ∧ exec (.leBackspace c) t = .next u
      ∧ editLine u = editLine s ∧ u.le.len = s.le.len ∧ u.le.cur = s.le.cur

/-- 70_reset_and_hazards.md R422: the most bytes one action or request pushes into the TX FIFO. -/
def Obligations.EmissionsStayInTheirBounds : Prop :=
  ∀ (s t : State) (b : Byte), Inv s →
    let n := t.tx.ghost.wabs - s.tx.ghost.wabs
    (exec .leHistPrev s = .next t ∨ exec .leHistNext s = .next t → n ≤ 4 * (s.cfg.maxLen - 1))
      ∧ (s.le.len ≠ s.cfg.maxLen - 1 → exec (.leInsert b) s = .next t → n ≤ 2 * s.cfg.maxLen - 3)
      ∧ (exec (.leBackspace b) s = .next t → n ≤ 2 * s.cfg.maxLen - 1)
      ∧ (exec .leEnter s = .next t →
          n ≤ s.cfg.newline.length + s.cfg.msgUnknown.length + s.cfg.prompt.length)
      ∧ (s.le.len = s.cfg.maxLen - 1 → exec (.leOverflow b) s = .next t →
          n ≤ s.cfg.msgOverflow.length + s.cfg.prompt.length)
      ∧ (exec .tab s = .next t →
          n ≤ s.cfg.newline.length * (1 + s.cfg.cmdTable.length) + (s.cfg.cmdTable.map List.length).sum)
      ∧ (exec .cmdDone s = .next t → n ≤ s.cfg.prompt.length)

/-- 30_encoding.md R119: the thirteen action codes, and that an accepted LE_FEED or POLL reports none of 13 to 15.
In escape state 3 the reported code is the free value of log 4, the model's choice, which keeps that bound. -/
def Obligations.ActionCodesFollowTheTable : Prop :=
  (actionCode .ignore = some 0 ∧ actionCode .escEnter = some 1 ∧ actionCode .enter = some 2
      ∧ actionCode .backspace = some 3 ∧ actionCode .insert = some 4 ∧ actionCode .overflow = some 5
      ∧ actionCode .escDrop = some 6 ∧ actionCode .csiEnter = some 7 ∧ actionCode .histPrev = some 8
      ∧ actionCode .histNext = some 9 ∧ actionCode .curRight = some 10 ∧ actionCode .curLeft = some 11
      ∧ actionCode .csiDrop = some 12)
    ∧ ∀ s : State, s.dp.pending = false →
      (∀ d : Byte, ∃ w t, exec (.leFeed d) s = .next (answer w t) ∧ (w.extractLsb' 24 4).toNat ≤ 12)
        ∧ (s.rx.leadR s.cfg.rx ≠ 0 →
          ∃ w t, exec .poll s = .next (answer w t) ∧ (w.extractLsb' 24 4).toNat ≤ 12)
end

