-- ==== Sys2Proof/Laws/State.lean ====
section
/-! SUPPORT. What each shared update of the state does to each field, one lemma a field, so that no proof
unfolds an update. -/

namespace Sys2Proof.Machine

/-! ## raise -/

@[simp] theorem raise_cfg (x : Fault) (s : State) : (raise x s).cfg = s.cfg := rfl
@[simp] theorem raise_rx (x : Fault) (s : State) : (raise x s).rx = s.rx := rfl
@[simp] theorem raise_tx (x : Fault) (s : State) : (raise x s).tx = s.tx := rfl
@[simp] theorem raise_te (x : Fault) (s : State) : (raise x s).te = s.te := rfl
@[simp] theorem raise_lapSync (x : Fault) (s : State) : (raise x s).lapSync = s.lapSync := rfl
@[simp] theorem raise_baud (x : Fault) (s : State) : (raise x s).baud = s.baud := rfl
@[simp] theorem raise_le (x : Fault) (s : State) : (raise x s).le = s.le := rfl
@[simp] theorem raise_dp (x : Fault) (s : State) : (raise x s).dp = s.dp := rfl
@[simp] theorem raise_g (x : Fault) (s : State) :
    (raise x s).g = { s.g with fault := s.g.fault.or (some x) } := rfl
@[simp] theorem raise_rsp (x : Fault) (s : State) : (raise x s).rsp = s.rsp := rfl
@[simp] theorem raise_txStart (x : Fault) (s : State) : (raise x s).txStart = s.txStart := rfl
@[simp] theorem raise_env (x : Fault) (s : State) : (raise x s).env = s.env := rfl
@[simp] theorem raise_draws (x : Fault) (s : State) : (raise x s).draws = s.draws := rfl

/-! ## respond -/

@[simp] theorem respond_cfg (st : Status) (p : BitVec 28) (s : State) : (respond st p s).cfg = s.cfg := rfl
@[simp] theorem respond_rx (st : Status) (p : BitVec 28) (s : State) : (respond st p s).rx = s.rx := rfl
@[simp] theorem respond_tx (st : Status) (p : BitVec 28) (s : State) : (respond st p s).tx = s.tx := rfl
@[simp] theorem respond_te (st : Status) (p : BitVec 28) (s : State) : (respond st p s).te = s.te := rfl
@[simp] theorem respond_lapSync (st : Status) (p : BitVec 28) (s : State) :
    (respond st p s).lapSync = s.lapSync := rfl
@[simp] theorem respond_baud (st : Status) (p : BitVec 28) (s : State) : (respond st p s).baud = s.baud := rfl
@[simp] theorem respond_le (st : Status) (p : BitVec 28) (s : State) : (respond st p s).le = s.le := rfl
@[simp] theorem respond_dp (st : Status) (p : BitVec 28) (s : State) : (respond st p s).dp = s.dp := rfl
@[simp] theorem respond_g (st : Status) (p : BitVec 28) (s : State) :
    (respond st p s).g = { s.g with rsplog := s.g.rsplog ++ [responseWord st p] } := rfl
@[simp] theorem respond_rsp (st : Status) (p : BitVec 28) (s : State) :
    (respond st p s).rsp = some (responseWord st p) := rfl
@[simp] theorem respond_txStart (st : Status) (p : BitVec 28) (s : State) :
    (respond st p s).txStart = s.txStart := rfl
@[simp] theorem respond_env (st : Status) (p : BitVec 28) (s : State) : (respond st p s).env = s.env := rfl
@[simp] theorem respond_draws (st : Status) (p : BitVec 28) (s : State) : (respond st p s).draws = s.draws := rfl

/-! ## answer -/

@[simp] theorem answer_cfg (w : Word) (s : State) : (answer w s).cfg = s.cfg := rfl
@[simp] theorem answer_rx (w : Word) (s : State) : (answer w s).rx = s.rx := rfl
@[simp] theorem answer_tx (w : Word) (s : State) : (answer w s).tx = s.tx := rfl
@[simp] theorem answer_te (w : Word) (s : State) : (answer w s).te = s.te := rfl
@[simp] theorem answer_lapSync (w : Word) (s : State) : (answer w s).lapSync = s.lapSync := rfl
@[simp] theorem answer_baud (w : Word) (s : State) : (answer w s).baud = s.baud := rfl
@[simp] theorem answer_le (w : Word) (s : State) : (answer w s).le = s.le := rfl
@[simp] theorem answer_dp (w : Word) (s : State) : (answer w s).dp = s.dp := rfl
@[simp] theorem answer_g (w : Word) (s : State) : (answer w s).g = { s.g with rsplog := s.g.rsplog ++ [w] } := rfl
@[simp] theorem answer_rsp (w : Word) (s : State) : (answer w s).rsp = some w := rfl
@[simp] theorem answer_txStart (w : Word) (s : State) : (answer w s).txStart = s.txStart := rfl
@[simp] theorem answer_env (w : Word) (s : State) : (answer w s).env = s.env := rfl
@[simp] theorem answer_draws (w : Word) (s : State) : (answer w s).draws = s.draws := rfl

/-! ## setEsc -/

@[simp] theorem setEsc_cfg (e : BitVec 2) (s : State) : (setEsc e s).cfg = s.cfg := rfl
@[simp] theorem setEsc_rx (e : BitVec 2) (s : State) : (setEsc e s).rx = s.rx := rfl
@[simp] theorem setEsc_tx (e : BitVec 2) (s : State) : (setEsc e s).tx = s.tx := rfl
@[simp] theorem setEsc_te (e : BitVec 2) (s : State) : (setEsc e s).te = s.te := rfl
@[simp] theorem setEsc_lapSync (e : BitVec 2) (s : State) : (setEsc e s).lapSync = s.lapSync := rfl
@[simp] theorem setEsc_baud (e : BitVec 2) (s : State) : (setEsc e s).baud = s.baud := rfl
@[simp] theorem setEsc_le (e : BitVec 2) (s : State) : (setEsc e s).le = { s.le with esc := e } := rfl
@[simp] theorem setEsc_dp (e : BitVec 2) (s : State) : (setEsc e s).dp = s.dp := rfl
@[simp] theorem setEsc_g (e : BitVec 2) (s : State) : (setEsc e s).g = s.g := rfl
@[simp] theorem setEsc_rsp (e : BitVec 2) (s : State) : (setEsc e s).rsp = s.rsp := rfl
@[simp] theorem setEsc_txStart (e : BitVec 2) (s : State) : (setEsc e s).txStart = s.txStart := rfl
@[simp] theorem setEsc_env (e : BitVec 2) (s : State) : (setEsc e s).env = s.env := rfl
@[simp] theorem setEsc_draws (e : BitVec 2) (s : State) : (setEsc e s).draws = s.draws := rfl

/-! ## startTx -/

@[simp] theorem startTx_cfg (v : Byte) (s : State) : (startTx v s).cfg = s.cfg := rfl
@[simp] theorem startTx_rx (v : Byte) (s : State) : (startTx v s).rx = s.rx := rfl
@[simp] theorem startTx_tx (v : Byte) (s : State) : (startTx v s).tx = s.tx := rfl
@[simp] theorem startTx_te (v : Byte) (s : State) :
    (startTx v s).te = { s.te with inflight := v, busy := true } := rfl
@[simp] theorem startTx_lapSync (v : Byte) (s : State) : (startTx v s).lapSync = s.lapSync := rfl
@[simp] theorem startTx_baud (v : Byte) (s : State) : (startTx v s).baud = s.baud := rfl
@[simp] theorem startTx_le (v : Byte) (s : State) : (startTx v s).le = s.le := rfl
@[simp] theorem startTx_dp (v : Byte) (s : State) : (startTx v s).dp = s.dp := rfl
@[simp] theorem startTx_g (v : Byte) (s : State) : (startTx v s).g = { s.g with txlog := s.g.txlog ++ [v] } := rfl
@[simp] theorem startTx_rsp (v : Byte) (s : State) : (startTx v s).rsp = s.rsp := rfl
@[simp] theorem startTx_txStart (v : Byte) (s : State) : (startTx v s).txStart = some v := rfl
@[simp] theorem startTx_env (v : Byte) (s : State) : (startTx v s).env = s.env := rfl
@[simp] theorem startTx_draws (v : Byte) (s : State) : (startTx v s).draws = s.draws := rfl

/-! ## quiesce -/

@[simp] theorem quiesce_cfg (s : State) : (quiesce s).cfg = s.cfg := rfl
@[simp] theorem quiesce_rx (s : State) : (quiesce s).rx = s.rx := rfl
@[simp] theorem quiesce_tx (s : State) : (quiesce s).tx = s.tx := rfl
@[simp] theorem quiesce_te (s : State) : (quiesce s).te = { s.te with
      busy := false, txEn := false
      enSync := List.replicate s.cfg.depth false, busySync := List.replicate s.cfg.depth false } := rfl
@[simp] theorem quiesce_lapSync (s : State) : (quiesce s).lapSync = s.lapSync := rfl
@[simp] theorem quiesce_baud (s : State) : (quiesce s).baud = s.baud := rfl
@[simp] theorem quiesce_le (s : State) : (quiesce s).le = s.le := rfl
@[simp] theorem quiesce_dp (s : State) : (quiesce s).dp = s.dp := rfl
@[simp] theorem quiesce_g (s : State) : (quiesce s).g = s.g := rfl
@[simp] theorem quiesce_rsp (s : State) : (quiesce s).rsp = s.rsp := rfl
@[simp] theorem quiesce_txStart (s : State) : (quiesce s).txStart = s.txStart := rfl
@[simp] theorem quiesce_env (s : State) : (quiesce s).env = s.env := rfl
@[simp] theorem quiesce_draws (s : State) : (quiesce s).draws = s.draws := rfl

/-! ## offer -/

@[simp] theorem offer_cfg (t : Tick) (s : State) : (offer t s).cfg = s.cfg := rfl
@[simp] theorem offer_rx (t : Tick) (s : State) : (offer t s).rx = s.rx := rfl
@[simp] theorem offer_tx (t : Tick) (s : State) : (offer t s).tx = s.tx := rfl
@[simp] theorem offer_te (t : Tick) (s : State) : (offer t s).te = s.te := rfl
@[simp] theorem offer_lapSync (t : Tick) (s : State) : (offer t s).lapSync = s.lapSync := rfl
@[simp] theorem offer_baud (t : Tick) (s : State) : (offer t s).baud = s.baud := rfl
@[simp] theorem offer_le (t : Tick) (s : State) : (offer t s).le = s.le := rfl
@[simp] theorem offer_dp (t : Tick) (s : State) : (offer t s).dp = s.dp := rfl
@[simp] theorem offer_g (t : Tick) (s : State) : (offer t s).g = s.g := rfl
@[simp] theorem offer_rsp (t : Tick) (s : State) : (offer t s).rsp = s.rsp := rfl
@[simp] theorem offer_txStart (t : Tick) (s : State) : (offer t s).txStart = s.txStart := rfl
@[simp] theorem offer_env (t : Tick) (s : State) : (offer t s).env = t :: s.env := rfl
@[simp] theorem offer_draws (t : Tick) (s : State) : (offer t s).draws = s.draws := rfl

/-! ## handLine -/

@[simp] theorem handLine_cfg (s : State) : (handLine s).cfg = s.cfg := rfl
@[simp] theorem handLine_rx (s : State) : (handLine s).rx = s.rx := rfl
@[simp] theorem handLine_tx (s : State) : (handLine s).tx = s.tx := rfl
@[simp] theorem handLine_te (s : State) : (handLine s).te = s.te := rfl
@[simp] theorem handLine_lapSync (s : State) : (handLine s).lapSync = s.lapSync := rfl
@[simp] theorem handLine_baud (s : State) : (handLine s).baud = s.baud := rfl
@[simp] theorem handLine_le (s : State) : (handLine s).le = { s.le with hdepth := 0, len := 0, cur := 0 } := rfl
@[simp] theorem handLine_dp (s : State) : (handLine s).dp = { s.dp with
      dline := s.dp.dline.writeBytes 0 (editLine s), dlen := s.le.len } := rfl
@[simp] theorem handLine_g (s : State) : (handLine s).g = s.g := rfl
@[simp] theorem handLine_rsp (s : State) : (handLine s).rsp = s.rsp := rfl
@[simp] theorem handLine_txStart (s : State) : (handLine s).txStart = s.txStart := rfl
@[simp] theorem handLine_env (s : State) : (handLine s).env = s.env := rfl
@[simp] theorem handLine_draws (s : State) : (handLine s).draws = s.draws := rfl

/-! ## handOff -/

@[simp] theorem handOff_cfg (b : Bool) (i : Nat) (s : State) : (handOff b i s).cfg = s.cfg := rfl
@[simp] theorem handOff_rx (b : Bool) (i : Nat) (s : State) : (handOff b i s).rx = s.rx := rfl
@[simp] theorem handOff_tx (b : Bool) (i : Nat) (s : State) : (handOff b i s).tx = s.tx := rfl
@[simp] theorem handOff_te (b : Bool) (i : Nat) (s : State) : (handOff b i s).te = s.te := rfl
@[simp] theorem handOff_lapSync (b : Bool) (i : Nat) (s : State) : (handOff b i s).lapSync = s.lapSync := rfl
@[simp] theorem handOff_baud (b : Bool) (i : Nat) (s : State) : (handOff b i s).baud = s.baud := rfl
@[simp] theorem handOff_le (b : Bool) (i : Nat) (s : State) : (handOff b i s).le = s.le := rfl
@[simp] theorem handOff_dp (b : Bool) (i : Nat) (s : State) :
    (handOff b i s).dp = { s.dp with pending := true, cmdIndex := i, fromLe := b } := rfl
@[simp] theorem handOff_g (b : Bool) (i : Nat) (s : State) : (handOff b i s).g = { s.g with handoffs := s.g.handoffs ++
      [{ index := i, argc := s.dp.argc, tokens := (List.range s.dp.argc).map fun k => tokenBytes k s }] } := rfl
@[simp] theorem handOff_rsp (b : Bool) (i : Nat) (s : State) : (handOff b i s).rsp = s.rsp := rfl
@[simp] theorem handOff_txStart (b : Bool) (i : Nat) (s : State) : (handOff b i s).txStart = s.txStart := rfl
@[simp] theorem handOff_env (b : Bool) (i : Nat) (s : State) : (handOff b i s).env = s.env := rfl
@[simp] theorem handOff_draws (b : Bool) (i : Nat) (s : State) : (handOff b i s).draws = s.draws := rfl

/-! ## setDispatchLine -/

@[simp] theorem setDispatchLine_cfg (l : List Byte) (s : State) : (setDispatchLine l s).cfg = s.cfg := rfl
@[simp] theorem setDispatchLine_rx (l : List Byte) (s : State) : (setDispatchLine l s).rx = s.rx := rfl
@[simp] theorem setDispatchLine_tx (l : List Byte) (s : State) : (setDispatchLine l s).tx = s.tx := rfl
@[simp] theorem setDispatchLine_te (l : List Byte) (s : State) : (setDispatchLine l s).te = s.te := rfl
@[simp] theorem setDispatchLine_lapSync (l : List Byte) (s : State) :
    (setDispatchLine l s).lapSync = s.lapSync := rfl
@[simp] theorem setDispatchLine_baud (l : List Byte) (s : State) : (setDispatchLine l s).baud = s.baud := rfl
@[simp] theorem setDispatchLine_le (l : List Byte) (s : State) : (setDispatchLine l s).le = s.le := rfl
@[simp] theorem setDispatchLine_dp (l : List Byte) (s : State) : (setDispatchLine l s).dp = { s.dp with
      dline := s.dp.dline.writeBytes 0 l, dlen := l.length } := rfl
@[simp] theorem setDispatchLine_g (l : List Byte) (s : State) : (setDispatchLine l s).g = s.g := rfl
@[simp] theorem setDispatchLine_rsp (l : List Byte) (s : State) : (setDispatchLine l s).rsp = s.rsp := rfl
@[simp] theorem setDispatchLine_txStart (l : List Byte) (s : State) :
    (setDispatchLine l s).txStart = s.txStart := rfl
@[simp] theorem setDispatchLine_env (l : List Byte) (s : State) : (setDispatchLine l s).env = s.env := rfl
@[simp] theorem setDispatchLine_draws (l : List Byte) (s : State) : (setDispatchLine l s).draws = s.draws := rfl

/-! ## tokenize -/

@[simp] theorem tokenize_cfg (s : State) : (tokenize s).cfg = s.cfg := rfl
@[simp] theorem tokenize_rx (s : State) : (tokenize s).rx = s.rx := rfl
@[simp] theorem tokenize_tx (s : State) : (tokenize s).tx = s.tx := rfl
@[simp] theorem tokenize_te (s : State) : (tokenize s).te = s.te := rfl
@[simp] theorem tokenize_lapSync (s : State) : (tokenize s).lapSync = s.lapSync := rfl
@[simp] theorem tokenize_baud (s : State) : (tokenize s).baud = s.baud := rfl
@[simp] theorem tokenize_le (s : State) : (tokenize s).le = s.le := rfl
@[simp] theorem tokenize_dp (s : State) : (tokenize s).dp = { s.dp with
      argc := (keptTokens s).length
      tokStart := overlay ((keptTokens s).map Prod.fst) s.dp.tokStart
      tokLen := overlay ((keptTokens s).map Prod.snd) s.dp.tokLen } := rfl
@[simp] theorem tokenize_g (s : State) : (tokenize s).g = s.g := rfl
@[simp] theorem tokenize_rsp (s : State) : (tokenize s).rsp = s.rsp := rfl
@[simp] theorem tokenize_txStart (s : State) : (tokenize s).txStart = s.txStart := rfl
@[simp] theorem tokenize_env (s : State) : (tokenize s).env = s.env := rfl
@[simp] theorem tokenize_draws (s : State) : (tokenize s).draws = s.draws := rfl

/-! ## histCommit -/

@[simp] theorem histCommit_cfg (s : State) : (histCommit s).cfg = s.cfg := rfl
@[simp] theorem histCommit_rx (s : State) : (histCommit s).rx = s.rx := rfl
@[simp] theorem histCommit_tx (s : State) : (histCommit s).tx = s.tx := rfl
@[simp] theorem histCommit_te (s : State) : (histCommit s).te = s.te := rfl
@[simp] theorem histCommit_lapSync (s : State) : (histCommit s).lapSync = s.lapSync := rfl
@[simp] theorem histCommit_baud (s : State) : (histCommit s).baud = s.baud := rfl
@[simp] theorem histCommit_le (s : State) : (histCommit s).le = { s.le with
      hist := s.le.hist.set s.le.hw ((histMem s.le.hw s).writeBytes 0 (editLine s))
      hlen := s.le.hlen.set s.le.hw s.le.len
      hw := (s.le.hw + 1) % s.cfg.hist
      hcount := min (s.le.hcount + 1) s.cfg.hist } := rfl
@[simp] theorem histCommit_dp (s : State) : (histCommit s).dp = s.dp := rfl
@[simp] theorem histCommit_g (s : State) : (histCommit s).g = s.g := rfl
@[simp] theorem histCommit_rsp (s : State) : (histCommit s).rsp = s.rsp := rfl
@[simp] theorem histCommit_txStart (s : State) : (histCommit s).txStart = s.txStart := rfl
@[simp] theorem histCommit_env (s : State) : (histCommit s).env = s.env := rfl
@[simp] theorem histCommit_draws (s : State) : (histCommit s).draws = s.draws := rfl

/-! ## rxPhases -/

@[simp] theorem rxPhases_cfg (s : State) : (rxPhases s).cfg = s.cfg := rfl
@[simp] theorem rxPhases_rx (s : State) : (rxPhases s).rx = { s.rx with
      rsync := syncShift s.rx.rpub s.rx.rsync, wpub := publish s.cfg.rx s.rx.wptr s.rx.wpub } := rfl
@[simp] theorem rxPhases_tx (s : State) : (rxPhases s).tx = s.tx := rfl
@[simp] theorem rxPhases_te (s : State) : (rxPhases s).te = s.te := rfl
@[simp] theorem rxPhases_lapSync (s : State) : (rxPhases s).lapSync = s.lapSync := rfl
@[simp] theorem rxPhases_baud (s : State) : (rxPhases s).baud = s.baud := rfl
@[simp] theorem rxPhases_le (s : State) : (rxPhases s).le = s.le := rfl
@[simp] theorem rxPhases_dp (s : State) : (rxPhases s).dp = s.dp := rfl
@[simp] theorem rxPhases_g (s : State) : (rxPhases s).g = s.g := rfl
@[simp] theorem rxPhases_rsp (s : State) : (rxPhases s).rsp = s.rsp := rfl
@[simp] theorem rxPhases_txStart (s : State) : (rxPhases s).txStart = s.txStart := rfl
@[simp] theorem rxPhases_env (s : State) : (rxPhases s).env = s.env := rfl
@[simp] theorem rxPhases_draws (s : State) : (rxPhases s).draws = s.draws := rfl

/-! ## txPhases -/

@[simp] theorem txPhases_cfg (s : State) : (txPhases s).cfg = s.cfg := rfl
@[simp] theorem txPhases_rx (s : State) : (txPhases s).rx = s.rx := rfl
@[simp] theorem txPhases_tx (s : State) : (txPhases s).tx = { s.tx with
      wsync := syncShift s.tx.wpub s.tx.wsync, rpub := publish s.cfg.tx s.tx.rptr s.tx.rpub } := rfl
@[simp] theorem txPhases_te (s : State) :
    (txPhases s).te = { s.te with enSync := syncShift s.te.txEn s.te.enSync } := rfl
@[simp] theorem txPhases_lapSync (s : State) : (txPhases s).lapSync = s.lapSync := rfl
@[simp] theorem txPhases_baud (s : State) : (txPhases s).baud = s.baud := rfl
@[simp] theorem txPhases_le (s : State) : (txPhases s).le = s.le := rfl
@[simp] theorem txPhases_dp (s : State) : (txPhases s).dp = s.dp := rfl
@[simp] theorem txPhases_g (s : State) : (txPhases s).g = s.g := rfl
@[simp] theorem txPhases_rsp (s : State) : (txPhases s).rsp = s.rsp := rfl
@[simp] theorem txPhases_txStart (s : State) : (txPhases s).txStart = none := rfl
@[simp] theorem txPhases_env (s : State) : (txPhases s).env = s.env := rfl
@[simp] theorem txPhases_draws (s : State) : (txPhases s).draws = s.draws := rfl

/-! ## corePhases -/

@[simp] theorem corePhases_cfg (s : State) : (corePhases s).cfg = s.cfg := rfl
@[simp] theorem corePhases_rx (s : State) : (corePhases s).rx = { s.rx with
      wsync := syncShift s.rx.wpub s.rx.wsync, rpub := publish s.cfg.rx s.rx.rptr s.rx.rpub } := rfl
@[simp] theorem corePhases_tx (s : State) : (corePhases s).tx = { s.tx with
      rsync := syncShift s.tx.rpub s.tx.rsync, wpub := publish s.cfg.tx s.tx.wptr s.tx.wpub } := rfl
@[simp] theorem corePhases_te (s : State) :
    (corePhases s).te = { s.te with busySync := syncShift s.te.busy s.te.busySync } := rfl
@[simp] theorem corePhases_lapSync (s : State) : (corePhases s).lapSync = syncShift s.rx.lapErr s.lapSync := rfl
@[simp] theorem corePhases_baud (s : State) : (corePhases s).baud = s.baud := rfl
@[simp] theorem corePhases_le (s : State) : (corePhases s).le = s.le := rfl
@[simp] theorem corePhases_dp (s : State) : (corePhases s).dp = s.dp := rfl
@[simp] theorem corePhases_g (s : State) : (corePhases s).g = s.g := rfl
@[simp] theorem corePhases_rsp (s : State) : (corePhases s).rsp = none := rfl
@[simp] theorem corePhases_txStart (s : State) : (corePhases s).txStart = s.txStart := rfl
@[simp] theorem corePhases_env (s : State) : (corePhases s).env = s.env := rfl
@[simp] theorem corePhases_draws (s : State) : (corePhases s).draws = s.draws := rfl

end Sys2Proof.Machine
end

