-- ==== Sys2Proof/Laws/Memory.lean ====
section
/-! SUPPORT. The laws of the byte storages (20_memory.md R86): a cell reads what was last written to it, a write
leaves every other cell alone, and every operation keeps the canonical form. -/

namespace Sys2Proof.Machine

/-! ## Keyed lists -/

section Keyed
variable {α : Type}

@[simp] theorem lookupKey_nil (i : Nat) : lookupKey ([] : List (Nat × α)) i = none := rfl

theorem lookupKey_insertKey (l : List (Nat × α)) (a : Nat) (v : α) (i : Nat) :
    lookupKey (insertKey l a v) i = if i = a then some v else lookupKey l i := by
  induction l with
  | nil => simp only [insertKey, lookupKey, eq_comm]
  | cons x rest ih =>
    obtain ⟨k, w⟩ := x
    by_cases hi : i = a
    · subst hi
      simp only [if_true] at ih ⊢
      unfold insertKey
      split
      · simp [lookupKey]
      · split
        · simp [lookupKey]
        · rename_i h1 h2
          have : ¬ k = i := fun e => h2 e.symm
          simp [lookupKey, this, ih]
    · simp only [hi, if_false] at ih ⊢
      have hai : ¬ a = i := fun e => hi e.symm
      unfold insertKey
      split
      · simp [lookupKey, hai]
      · split
        · rename_i h1 h2
          subst h2
          simp [lookupKey, hai]
        · simp [lookupKey, ih]

theorem lookupKey_eraseKey (l : List (Nat × α)) (a i : Nat) :
    lookupKey (eraseKey l a) i = if i = a then none else lookupKey l i := by
  induction l with
  | nil => simp [eraseKey]
  | cons x rest ih =>
    obtain ⟨k, w⟩ := x
    unfold eraseKey
    by_cases hk : k = a
    · subst hk
      rw [if_pos rfl, ih]
      by_cases hi : i = k
      · simp [hi]
      · have : ¬ k = i := fun e => hi e.symm
        simp [lookupKey, hi, this]
    · rw [if_neg hk]
      by_cases hi : i = a
      · subst hi
        simp only [lookupKey, hk, if_false, if_true] at ih ⊢
        exact ih
      · simp only [lookupKey, ih, hi, if_false]

/-- What an insertion can put in the list: the new entry, and entries that stood there. -/
theorem mem_insertKey {l : List (Nat × α)} {a : Nat} {v : α} {x : Nat × α}
    (h : x ∈ insertKey l a v) : x = (a, v) ∨ x ∈ l := by
  induction l with
  | nil => simpa [insertKey] using h
  | cons y rest ih =>
    obtain ⟨k, w⟩ := y
    unfold insertKey at h
    split at h
    · simpa using h
    · split at h
      · rcases List.mem_cons.1 h with h | h
        · exact .inl h
        · exact .inr (List.mem_cons_of_mem _ h)
      · rcases List.mem_cons.1 h with h | h
        · exact .inr (h ▸ List.mem_cons_self)
        · exact (ih h).imp id (List.mem_cons_of_mem _)

theorem mem_eraseKey {l : List (Nat × α)} {a : Nat} {x : Nat × α} (h : x ∈ eraseKey l a) : x ∈ l := by
  induction l with
  | nil => simp [eraseKey] at h
  | cons y rest ih =>
    obtain ⟨k, w⟩ := y
    unfold eraseKey at h
    split at h
    · exact List.mem_cons_of_mem _ (ih h)
    · rcases List.mem_cons.1 h with h | h
      · exact h ▸ List.mem_cons_self
      · exact List.mem_cons_of_mem _ (ih h)

theorem insertKey_keeps_rising {l : List (Nat × α)} (a : Nat) (v : α)
    (h : l.Pairwise (fun x y => x.1 < y.1)) : (insertKey l a v).Pairwise (fun x y => x.1 < y.1) := by
  induction l with
  | nil => simp [insertKey]
  | cons y rest ih =>
    obtain ⟨k, w⟩ := y
    obtain ⟨hk, hr⟩ := List.pairwise_cons.1 h
    unfold insertKey
    split
    · rename_i hlt
      refine List.pairwise_cons.2 ⟨fun x hx => ?_, h⟩
      rcases List.mem_cons.1 hx with hx | hx
      · simpa [hx] using hlt
      · exact lt_trans hlt (hk x hx)
    · split
      · rename_i heq
        subst heq
        exact List.pairwise_cons.2 ⟨hk, hr⟩
      · rename_i hlt hne
        refine List.pairwise_cons.2 ⟨fun x hx => ?_, ih hr⟩
        rcases mem_insertKey hx with hx | hx
        · subst hx
          have : ¬ a < k := hlt
          simp only
          omega
        · exact hk x hx

theorem eraseKey_keeps_rising {l : List (Nat × α)} (a : Nat)
    (h : l.Pairwise (fun x y => x.1 < y.1)) : (eraseKey l a).Pairwise (fun x y => x.1 < y.1) := by
  induction l with
  | nil => simp [eraseKey]
  | cons y rest ih =>
    obtain ⟨k, w⟩ := y
    obtain ⟨hk, hr⟩ := List.pairwise_cons.1 h
    unfold eraseKey
    split
    · exact ih hr
    · exact List.pairwise_cons.2 ⟨fun x hx => hk x (mem_eraseKey hx), ih hr⟩

end Keyed

/-! ## Byte storages -/

@[simp] theorem Memory.read_nil (i : Nat) : Memory.read [] i = Memory.unlisted := rfl

/-- Read after write. -/
@[simp] theorem Memory.read_write (m : Memory) (a : Nat) (v : Byte) (i : Nat) :
    (m.write a v).read i = if i = a then v else m.read i := by
  unfold Memory.write Memory.read
  split
  · rename_i hv
    rw [lookupKey_eraseKey]
    split
    · simp [hv]
    · rfl
  · rw [lookupKey_insertKey]
    split <;> rfl

/-- A write keeps the canonical form. -/
theorem Memory.write_keeps_wf {m : Memory} (a : Nat) (v : Byte) (h : m.wf) : (m.write a v).wf := by
  obtain ⟨hr, hn⟩ := h
  unfold Memory.write
  split
  · exact ⟨eraseKey_keeps_rising a hr, fun c hc => hn c (mem_eraseKey hc)⟩
  · rename_i hv
    refine ⟨insertKey_keeps_rising a v hr, fun c hc => ?_⟩
    rcases mem_insertKey hc with hc | hc
    · simpa [hc] using hv
    · exact hn c hc

/-- A write below the bound keeps a storage in its bound. -/
theorem Memory.write_keeps_ok {n : Nat} {m : Memory} {a : Nat} (v : Byte) (ha : a < n)
    (h : StorageOk n m) : StorageOk n (m.write a v) := by
  refine ⟨Memory.write_keeps_wf a v h.1, fun c hc => ?_⟩
  unfold Memory.write at hc
  split at hc
  · exact h.2 c (mem_eraseKey hc)
  · rcases mem_insertKey hc with hc | hc
    · simpa [hc] using ha
    · exact h.2 c hc

@[simp] theorem Memory.slice_length (m : Memory) (i n : Nat) : (m.slice i n).length = n := by
  simp [Memory.slice]

/-- Byte k of a slice. -/
theorem Memory.slice_getElem? (m : Memory) (i n k : Nat) :
    (m.slice i n)[k]? = if k < n then some (m.read (i + k)) else none := by
  by_cases h : k < n
  · simp [Memory.slice, h]
  · simp [Memory.slice, h]

/-- Reading after a run of bytes is written. -/
theorem Memory.read_writeBytes (l : List Byte) (m : Memory) (a i : Nat) :
    (m.writeBytes a l).read i = if a ≤ i then (l[i - a]?).getD (m.read i) else m.read i := by
  induction l generalizing m a with
  | nil => simp [Memory.writeBytes]
  | cons b rest ih =>
    simp only [Memory.writeBytes, ih, Memory.read_write]
    by_cases h1 : a + 1 ≤ i
    · have h2 : a ≤ i := by omega
      have h3 : ¬ i = a := by omega
      have h4 : i - a = (i - (a + 1)) + 1 := by omega
      simp [h1, h2, h3, h4]
    · by_cases h2 : i = a
      · subst h2
        simp
      · have h3 : ¬ a ≤ i := by omega
        simp [h1, h2, h3]

theorem Memory.writeBytes_keeps_ok {n : Nat} (l : List Byte) {m : Memory} {a : Nat} (ha : a + l.length ≤ n)
    (h : StorageOk n m) : StorageOk n (m.writeBytes a l) := by
  induction l generalizing m a with
  | nil => exact h
  | cons b rest ih =>
    simp only [List.length_cons] at ha
    exact ih (by omega) (Memory.write_keeps_ok b (by omega) h)

/-- A written run reads back. -/
theorem Memory.slice_writeBytes (m : Memory) (a : Nat) (l : List Byte) :
    (m.writeBytes a l).slice a l.length = l := by
  apply List.ext_getElem?
  intro k
  rw [Memory.slice_getElem?]
  split
  · rename_i h
    rw [Memory.read_writeBytes, if_pos (by omega)]
    simp [h]
  · rename_i h
    simp [List.getElem?_eq_none (Nat.not_lt.1 h)]

/-- Two storages that agree on a range have equal slices there. -/
theorem Memory.slice_congr {m m' : Memory} {i n : Nat} (h : ∀ k, i ≤ k → k < i + n → m.read k = m'.read k) :
    m.slice i n = m'.slice i n := by
  apply List.ext_getElem?
  intro k
  simp only [Memory.slice_getElem?]
  split
  · rw [h (i + k) (by omega) (by omega)]
  · rfl

/-- A slice cut short. -/
theorem Memory.slice_take (m : Memory) (i n k : Nat) (h : k ≤ n) : (m.slice i n).take k = m.slice i k := by
  apply List.ext_getElem?
  intro j
  rw [List.getElem?_take]
  simp only [Memory.slice_getElem?]
  by_cases hj : j < k
  · rw [if_pos hj, if_pos hj, if_pos (by omega)]
  · rw [if_neg hj, if_neg hj]

/-- A slice's tail. -/
theorem Memory.slice_drop (m : Memory) (i n k : Nat) : (m.slice i n).drop k = m.slice (i + k) (n - k) := by
  apply List.ext_getElem?
  intro j
  rw [List.getElem?_drop]
  simp only [Memory.slice_getElem?]
  by_cases h : k + j < n
  · rw [if_pos h, if_pos (by omega), Nat.add_assoc]
  · rw [if_neg h, if_neg (by omega)]

end Sys2Proof.Machine
end

