-- ==== Sys2Proof/Laws/Emit.lean ====
section
/-! SUPPORT. What a push, `emit` and a pop do to the state, once, so that no later proof unfolds them. -/

namespace Sys2Proof.Machine

/-! ## Pushes -/

/-- Everything PUSH(TX, b) does. -/
theorem pushTx_eq (b : Byte) (s : State) :
    pushTx b s = { s with
      tx := s.tx.push s.cfg.tx b
      g.fault := if s.tx.laps s.cfg.tx then s.g.fault.or (some .lapOverrun) else s.g.fault } := by
  unfold pushTx
  split <;> rfl

/-- Everything PUSH(RX, b) does. -/
theorem pushRx_eq (b : Byte) (s : State) :
    pushRx b s = { s with
      rx := s.rx.push s.cfg.rx b
      g.fault := if s.rx.laps s.cfg.rx then s.g.fault.or (some .lapOverrun) else s.g.fault } := by
  unfold pushRx
  split <;> rfl

/-- Everything one byte of `emit` does. -/
theorem emitByte_eq (b : Byte) (s : State) :
    emitByte b s = { s with
      tx := s.tx.push s.cfg.tx b
      te.txEn := true
      g.fault := if s.tx.laps s.cfg.tx then s.g.fault.or (some .lapOverrun) else s.g.fault } := by
  rw [emitByte, pushTx_eq]

@[simp] theorem emitByte_cfg (b : Byte) (s : State) : (emitByte b s).cfg = s.cfg := by rw [emitByte_eq]
@[simp] theorem emitByte_tx (b : Byte) (s : State) : (emitByte b s).tx = s.tx.push s.cfg.tx b := by
  rw [emitByte_eq]

/-! ## `emit` -/

@[simp] theorem emit_nil (s : State) : emit [] s = s := rfl
@[simp] theorem emit_cons (b : Byte) (l : List Byte) (s : State) :
    emit (b :: l) s = emit l (emitByte b s) := rfl

/-- Emitting two strings in turn is emitting their concatenation (00_scope.md R19). -/
theorem emit_append (l m : List Byte) (s : State) : emit (l ++ m) s = emit m (emit l s) := by
  induction l generalizing s with
  | nil => rfl
  | cons b rest ih => exact ih _

/-- A property of states that one emitted byte keeps is kept by `emit`. -/
theorem emit_induct {P : State → Prop} (hb : ∀ b s, P s → P (emitByte b s)) (l : List Byte) (s : State)
    (h : P s) : P (emit l s) := by
  induction l generalizing s with
  | nil => exact h
  | cons b rest ih => exact ih _ (hb b s h)

/-- `emit` touches only the TX FIFO, the transmit enable and the fault record. -/
theorem emit_touches (l : List Byte) (s : State) :
    emit l s = { s with
      tx := (emit l s).tx
      te.txEn := (emit l s).te.txEn
      g.fault := (emit l s).g.fault } :=
  emit_induct
    (P := fun t => t = { s with tx := t.tx, te.txEn := t.te.txEn, g.fault := t.g.fault })
    (fun b t h => by rw [emitByte_eq, h]) l s rfl

@[simp] theorem emit_cfg (l : List Byte) (s : State) : (emit l s).cfg = s.cfg := by rw [emit_touches]
@[simp] theorem emit_rx (l : List Byte) (s : State) : (emit l s).rx = s.rx := by rw [emit_touches]
@[simp] theorem emit_lapSync (l : List Byte) (s : State) : (emit l s).lapSync = s.lapSync := by rw [emit_touches]
@[simp] theorem emit_baud (l : List Byte) (s : State) : (emit l s).baud = s.baud := by rw [emit_touches]
@[simp] theorem emit_le (l : List Byte) (s : State) : (emit l s).le = s.le := by rw [emit_touches]
@[simp] theorem emit_dp (l : List Byte) (s : State) : (emit l s).dp = s.dp := by rw [emit_touches]
@[simp] theorem emit_rsp (l : List Byte) (s : State) : (emit l s).rsp = s.rsp := by rw [emit_touches]
@[simp] theorem emit_txStart (l : List Byte) (s : State) : (emit l s).txStart = s.txStart := by rw [emit_touches]
@[simp] theorem emit_env (l : List Byte) (s : State) : (emit l s).env = s.env := by rw [emit_touches]
@[simp] theorem emit_draws (l : List Byte) (s : State) : (emit l s).draws = s.draws := by rw [emit_touches]
@[simp] theorem emit_handoffs (l : List Byte) (s : State) : (emit l s).g.handoffs = s.g.handoffs := by
  rw [emit_touches]
@[simp] theorem emit_txlog (l : List Byte) (s : State) : (emit l s).g.txlog = s.g.txlog := by rw [emit_touches]
@[simp] theorem emit_rsplog (l : List Byte) (s : State) : (emit l s).g.rsplog = s.g.rsplog := by rw [emit_touches]
@[simp] theorem emit_race (l : List Byte) (s : State) : (emit l s).g.race = s.g.race := by rw [emit_touches]
@[simp] theorem emit_busy (l : List Byte) (s : State) : (emit l s).te.busy = s.te.busy := by rw [emit_touches]
@[simp] theorem emit_inflight (l : List Byte) (s : State) : (emit l s).te.inflight = s.te.inflight := by
  rw [emit_touches]
@[simp] theorem emit_enSync (l : List Byte) (s : State) : (emit l s).te.enSync = s.te.enSync := by
  rw [emit_touches]
@[simp] theorem emit_busySync (l : List Byte) (s : State) : (emit l s).te.busySync = s.te.busySync := by
  rw [emit_touches]

/-- `emit` does not look at the editor, the dispatcher or the hand-off log. -/
theorem emit_update (l : List Byte) (s : State) (le : LineEditor) (dp : Dispatcher) (ho : List Handoff) :
    emit l { s with le := le, dp := dp, g.handoffs := ho }
      = { emit l s with le := le, dp := dp, g.handoffs := ho } := by
  induction l generalizing s with
  | nil => rfl
  | cons b rest ih =>
    rw [emit_cons, emit_cons, ← ih]
    simp only [emitByte_eq]

/-! ## Pops -/

/-- Everything POP(RX) does to the state. -/
theorem popRx_eq (s : State) :
    popRx s = ((s.rx.pop s.cfg.rx (Config.freeByte s.draws)).byte,
      let r := s.rx.pop s.cfg.rx (Config.freeByte s.draws)
      { s with
        rx := r.fifo
        g.race := s.g.race || r.raced
        draws := if r.raced then s.draws + 1 else s.draws }) := by
  unfold popRx noteRace
  generalize s.rx.pop s.cfg.rx (Config.freeByte s.draws) = r
  obtain ⟨byte, fifo, raced⟩ := r
  cases raced <;> simp

/-- Everything POP(TX) does to the state. -/
theorem popTx_eq (s : State) :
    popTx s = ((s.tx.pop s.cfg.tx (Config.freeByte s.draws)).byte,
      let r := s.tx.pop s.cfg.tx (Config.freeByte s.draws)
      { s with
        tx := r.fifo
        g.race := s.g.race || r.raced
        draws := if r.raced then s.draws + 1 else s.draws }) := by
  unfold popTx noteRace
  generalize s.tx.pop s.cfg.tx (Config.freeByte s.draws) = r
  obtain ⟨byte, fifo, raced⟩ := r
  cases raced <;> simp

/-- What a pop returns: nothing on an empty view and the FIFO unchanged, or a byte and the read side moved. -/
theorem Fifo.pop_result (c : FifoCfg) (draw : Byte) (f : Fifo) :
    (f.leadR c = 0 ∧ f.pop c draw = { byte := none, fifo := f, raced := false })
      ∨ (f.leadR c ≠ 0 ∧ ∃ v, (f.pop c draw).byte = some v
        ∧ (f.pop c draw).fifo = (f.discard c).advance c
        ∧ (f.pop c draw).raced = (f.discard c).overwritten c) := by
  unfold Fifo.pop
  by_cases h : f.leadR c = 0
  · exact .inl ⟨h, if_pos h⟩
  · refine .inr ⟨h, ?_⟩
    simp only [if_neg h]
    split <;> simp_all

/-- A pop leaves the write side of its FIFO and its storage alone. -/
theorem Fifo.pop_touches (c : FifoCfg) (draw : Byte) (f : Fifo) :
    (f.pop c draw).fifo = { f with
      rptr := (f.pop c draw).fifo.rptr
      ghost := { f.ghost with rabs := (f.pop c draw).fifo.ghost.rabs } } := by
  unfold Fifo.pop Fifo.discard Fifo.advance
  split
  · rfl
  · dsimp only
    split <;> split <;> rfl

/-- A push leaves the read side of its FIFO and its own copies alone. -/
theorem Fifo.push_touches (c : FifoCfg) (b : Byte) (f : Fifo) :
    f.push c b = { f with
      mem := f.mem.write (f.wptr % c.cap) b
      wptr := (f.wptr + 1) % c.modulus
      lapErr := f.lapErr || f.laps c
      ghost := { f.ghost with
        wabs := f.ghost.wabs + 1
        tag := insertKey f.ghost.tag (f.wptr % c.cap) f.ghost.wabs } } := rfl

/-! ## Synchronizers -/

@[simp] theorem syncShift_length {α : Type} (src : α) (chain : List α) :
    (syncShift src chain).length = chain.length := by simp [syncShift]

/-- Stage 1 takes the source, stage k+1 takes stage k (40_fifo_cdc.md R161). -/
theorem syncShift_getElem? {α : Type} (src : α) (chain : List α) (k : Nat) (h : k < chain.length) :
    (syncShift src chain)[k]? = (src :: chain)[k]? := by
  rw [syncShift, List.getElem?_dropLast]
  simp [h]

theorem mem_syncShift {α : Type} {src x : α} {chain : List α} (h : x ∈ syncShift src chain) :
    x = src ∨ x ∈ chain := by
  have := List.dropLast_subset _ h
  simpa using this

end Sys2Proof.Machine
end

