-- ==== Sys2Proof/Laws/Actions.lean ====
section
/-! SUPPORT. What the larger shared operations do, one lemma for each of their cases: the next tick, a pop, the
publisher, EXECUTE, COMPLETE and the editor's helpers. -/

namespace Sys2Proof.Machine

/-! ## The next tick -/

/-- An offered tick is the one that runs. -/
theorem step_of_offer {s : State} {t : Tick} {rest : List Tick} (h : s.env = t :: rest) :
    step s = runTick t { s with env := rest } := by simp only [step, fetch, h]

/-- With nothing offered the free agent ticks idly. -/
theorem step_of_no_offer {s : State} (h : s.env = []) :
    step s = runTick (idleTick (Config.freeAgent s.draws)) { s with draws := s.draws + 1 } := by
  simp only [step, fetch, h]

/-- The step runs `nextTick`. -/
theorem fetch_fst (s : State) : (fetch s).1 = nextTick s := by
  cases h : s.env <;> simp only [fetch, nextTick, h]

/-- Taking the next tick moves only the environment's list and the draw count. -/
theorem fetch_touches (s : State) :
    (fetch s).2 = { s with env := (fetch s).2.env, draws := (fetch s).2.draws } := by
  unfold fetch
  split <;> rfl

/-- A step is its tick, whether offered or not. -/
theorem step_eq_runTick (s : State) : step s = runTick (nextTick s) (fetch s).2 := by
  rw [step, fetch_fst]

/-- A placed tick is the one that runs. -/
theorem step_offer (t : Tick) (s : State) : step (offer t s) = runTick t s := rfl

/-! ## Pop and publish -/

theorem Fifo.pop_of_empty {c : FifoCfg} {draw : Byte} {f : Fifo} (h : f.leadR c = 0) :
    f.pop c draw = { byte := none, fifo := f, raced := false } := by
  unfold Fifo.pop
  rw [if_pos h]

theorem Fifo.pop_of_fresh {c : FifoCfg} {draw : Byte} {f : Fifo} (h : f.leadR c ≠ 0)
    (hr : (f.discard c).overwritten c = false) :
    f.pop c draw = {
      byte := some ((f.discard c).mem.read ((f.discard c).rptr % c.cap))
      fifo := (f.discard c).advance c
      raced := false } := by
  unfold Fifo.pop
  rw [if_neg h]
  simp only [hr]
  rfl

theorem Fifo.pop_of_overwritten {c : FifoCfg} {draw : Byte} {f : Fifo} (h : f.leadR c ≠ 0)
    (hr : (f.discard c).overwritten c = true) :
    f.pop c draw = { byte := some draw, fifo := (f.discard c).advance c, raced := true } := by
  unfold Fifo.pop
  rw [if_neg h]
  simp only [hr]
  rfl

theorem Fifo.discard_of_fit {c : FifoCfg} {f : Fifo} (h : f.leadR c ≤ c.cap) : f.discard c = f :=
  if_neg (Nat.not_lt.2 h)

theorem Fifo.discard_of_excess {c : FifoCfg} {f : Fifo} (h : c.cap < f.leadR c) :
    f.discard c = { f with
      rptr := subMod (bin c.pw (stagePtr f.wsync)) c.cap c.modulus
      ghost := { f.ghost with rabs := f.ghost.rabs + (f.leadR c - c.cap) } } :=
  if_pos h

theorem publish_of_done {c : FifoCfg} {p pub : Nat} (h : bin c.pw pub = p) : publish c p pub = pub := if_pos h

theorem publish_of_behind {c : FifoCfg} {p pub : Nat} (h : bin c.pw pub ≠ p) :
    publish c p pub = gray ((bin c.pw pub + 1) % c.modulus) := if_neg h

/-! ## EXECUTE and COMPLETE -/

theorem execute_of_no_token {fromLe : Bool} {s : State} (h : keptTokens s = []) :
    execute fromLe s = (.noop, tokenize s) := by
  simp only [execute, executeTokens, tokenize, h, List.length_nil, if_true]

theorem execute_of_unknown {fromLe : Bool} {s : State} (h : keptTokens s ≠ [])
    (hm : matchName s.cfg.cmdTable (tokenBytes 0 (tokenize s)) = none) :
    execute fromLe s = (.unknown, emit s.cfg.msgUnknown (tokenize s)) := by
  have hn : (tokenize s).dp.argc ≠ 0 := by simpa [tokenize] using h
  have hc : (tokenize s).cfg = s.cfg := rfl
  simp only [execute, executeTokens, if_neg hn, hc, hm]

theorem execute_of_match {fromLe : Bool} {s : State} {i : Nat} (h : keptTokens s ≠ [])
    (hm : matchName s.cfg.cmdTable (tokenBytes 0 (tokenize s)) = some i) :
    execute fromLe s = (.dispatched, handOff fromLe i (tokenize s)) := by
  have hn : (tokenize s).dp.argc ≠ 0 := by simpa [tokenize] using h
  have hc : (tokenize s).cfg = s.cfg := rfl
  simp only [execute, executeTokens, if_neg hn, hc, hm]

/-- EXECUTE leaves the line editor, the RX FIFO and the engine's synchronizers alone (43_dispatch.md R357). -/
theorem execute_touches (fromLe : Bool) (s : State) :
    (execute fromLe s).2 = { s with
      tx := (execute fromLe s).2.tx
      te.txEn := (execute fromLe s).2.te.txEn
      dp := (execute fromLe s).2.dp
      g.fault := (execute fromLe s).2.g.fault
      g.handoffs := (execute fromLe s).2.g.handoffs } := by
  unfold execute executeTokens
  split
  · rfl
  · split
    · rw [emit_touches]
      rfl
    · rfl

theorem complete_of_empty {s : State} (h : s.dp.dlen = 0) :
    complete s = ({ out := .noMatch, count := 0, index := 0 }, s) := if_pos h

theorem complete_of_help {s : State} {i : Nat} (h : s.dp.dlen ≠ 0)
    (hi : helpIndex s.cfg.cmdTable (dispatchLine s) = some i) :
    complete s = ({ out := .helpShown, count := 1, index := i },
      (execute false (setDispatchLine (commandName s i ++ helpSuffix) s)).2) := by
  simp only [complete, if_neg h, hi]

theorem complete_of_prefix {s : State} (h : s.dp.dlen ≠ 0)
    (hi : helpIndex s.cfg.cmdTable (dispatchLine s) = none) : complete s = completePrefix s := by
  simp only [complete, if_neg h, hi]

/-! ## The editor -/

/-- The byte step is the selected action, with its code. -/
theorem leStep_of_action {b : Byte} {s : State} {code : BitVec 4} (h : actionCode (leActOf b s) = some code) :
    leStep b s = (code, actEffect b s (leActOf b s)) := by simp only [leStep, h]

/-- Each action's row has the effect the byte step gives it. -/
theorem exec_toInstr (act : LeAct) (b : Byte) (s : State) :
    exec (act.toInstr b) s = .next (actEffect b s act) := by cases act <;> rfl

/-- ENTER's line copy reads back. -/
theorem handLine_dispatchLine (s : State) : dispatchLine (handLine s) = editLine s := by
  have h := Memory.slice_writeBytes s.dp.dline 0 (editLine s)
  have hl : (editLine s).length = s.le.len := Memory.slice_length _ _ _
  rw [hl] at h
  exact h

/-- A line put in place by completion reads back. -/
theorem setDispatchLine_dispatchLine (bytes : List Byte) (s : State) :
    dispatchLine (setDispatchLine bytes s) = bytes := Memory.slice_writeBytes s.dp.dline 0 bytes

/-- Where one line-clear and one entry go: all bytes in one emission. -/
theorem emit_clear_then (n : Nat) (l : List Byte) (s : State) :
    emit l (emit (clearBytes n) s) = emit (clearBytes n ++ l) s := (emit_append _ _ _).symm

end Sys2Proof.Machine
end

