-- ==== Sys2Proof/Laws/PerInstr.lean ====
section
/-! SUPPORT. Facts about each instruction as syntax, one lemma a constructor: its word fits its format. -/

namespace Sys2Proof.Laws.EncodeInFormat

/-- The instruction's word has no bit above its format's width. -/
def Statement (i : Instr) : Prop := encode i < 2 ^ i.format.width

theorem nop : Statement .nop := BitVec.isLt _
theorem rxPop : Statement .rxPop := BitVec.isLt _
theorem txSend (d : Byte) : Statement (.txSend d) := BitVec.isLt _
theorem leFeed (d : Byte) : Statement (.leFeed d) := BitVec.isLt _
theorem poll : Statement .poll := BitVec.isLt _
theorem lineWrClr : Statement .lineWrClr := BitVec.isLt _
theorem lineWrPut (a d : Byte) : Statement (.lineWrPut a d) := BitVec.isLt _
theorem execLine : Statement .execLine := BitVec.isLt _
theorem tab : Statement .tab := BitVec.isLt _
theorem lineRd (d : Byte) : Statement (.lineRd d) := BitVec.isLt _
theorem tokRd (d : Byte) : Statement (.tokRd d) := BitVec.isLt _
theorem cmdStat : Statement .cmdStat := BitVec.isLt _
theorem cmdDone : Statement .cmdDone := BitVec.isLt _
theorem status (a : Byte) : Statement (.status a) := BitVec.isLt _
theorem histRd (a d : Byte) : Statement (.histRd a d) := BitVec.isLt _
theorem reconf (d : Byte) : Statement (.reconf d) := BitVec.isLt _
theorem illegal (req : Word) : Statement (.illegal req) := BitVec.isLt _
theorem leIgnore (b : Byte) : Statement (.leIgnore b) := BitVec.isLt _
theorem leEscEnter : Statement .leEscEnter := BitVec.isLt _
theorem leEnter : Statement .leEnter := BitVec.isLt _
theorem leBackspace (b : Byte) : Statement (.leBackspace b) := BitVec.isLt _
theorem leInsert (b : Byte) : Statement (.leInsert b) := BitVec.isLt _
theorem leOverflow (b : Byte) : Statement (.leOverflow b) := BitVec.isLt _
theorem leEscDrop (b : Byte) : Statement (.leEscDrop b) := BitVec.isLt _
theorem leCsiEnter : Statement .leCsiEnter := BitVec.isLt _
theorem leHistPrev : Statement .leHistPrev := BitVec.isLt _
theorem leHistNext : Statement .leHistNext := BitVec.isLt _
theorem leCurRight : Statement .leCurRight := BitVec.isLt _
theorem leCurLeft : Statement .leCurLeft := BitVec.isLt _
theorem leCsiDrop (b : Byte) : Statement (.leCsiDrop b) := BitVec.isLt _
theorem leIllegalEscState (b : Byte) : Statement (.leIllegalEscState b) := BitVec.isLt _
theorem rxByte (b : Byte) : Statement (.rxByte b) := BitVec.isLt _
theorem txDone : Statement .txDone := by unfold Statement; decide

end Sys2Proof.Laws.EncodeInFormat
end

