-- ==== Sys2Proof/Tests/Slice0.lean ====
section
/-! SUPPORT. The model's own tests: what `wf` refuses, words written out from the spec's encodings, one step of
each instruction on the spec's worked examples, and a witness for each statement that has hypotheses. -/

namespace Sys2Proof.Tests

open Sys2Proof Sys2Proof.Machine

/-! ## Well-formedness: an ill-formed term for each check -/

theorem test_wf_refuses_line_wr_put_zero : (Instr.lineWrPut 0 0x68).wf = false := by decide
theorem test_wf_refuses_illegal_of_a_legal_word : (Instr.illegal 0x20000041).wf = false := by decide
theorem test_wf_refuses_ignore_of_handled_bytes :
    ∀ b ∈ ([0x08, 0x0D, 0x1B, 0x20, 0x7E, 0x7F] : List Byte), (Instr.leIgnore b).wf = false := by decide
theorem test_wf_refuses_backspace_of_tab : (Instr.leBackspace 0x09).wf = false := by decide
theorem test_wf_refuses_insert_outside_printable :
    (Instr.leInsert 0x1F).wf = false ∧ (Instr.leInsert 0x7F).wf = false := by decide
theorem test_wf_refuses_overflow_outside_printable :
    (Instr.leOverflow 0x1F).wf = false ∧ (Instr.leOverflow 0x7F).wf = false := by decide
theorem test_wf_refuses_esc_drop_of_bracket : (Instr.leEscDrop 0x5B).wf = false := by decide
theorem test_wf_refuses_csi_drop_of_final_bytes :
    (Instr.leCsiDrop 0x41).wf = false ∧ (Instr.leCsiDrop 0x44).wf = false := by decide
theorem test_wf_accepts_row_bounds :
    (Instr.leInsert 0x20).wf = true ∧ (Instr.leInsert 0x7E).wf = true ∧ (Instr.leCsiDrop 0x40).wf = true
      ∧ (Instr.leCsiDrop 0x45).wf = true ∧ (Instr.illegal 0xF0000000).wf = true := by decide

/-! ## Words, written out from 30_encoding.md R110, R112, R125 and R131 -/

/-- Request words: {op, 0000, a, 00000000, d}. -/
theorem test_decode_requests :
    decodeReq 0b0000_0000_00000000_00000000_00000000 = .nop
      ∧ decodeReq 0b0001_0000_00000000_00000000_00000000 = .rxPop
      ∧ decodeReq 0b0010_0000_00000000_00000000_01001111 = .txSend 0x4F
      ∧ decodeReq 0b0011_0000_00000000_00000000_00001101 = .leFeed 0x0D
      ∧ decodeReq 0b0100_0000_00000000_00000000_00000000 = .poll
      ∧ decodeReq 0b0101_0000_00000000_00000000_00000000 = .lineWrClr
      ∧ decodeReq 0b0101_0000_00000001_00000000_01101000 = .lineWrPut 1 0x68
      ∧ decodeReq 0b0101_0000_00000010_00000000_01101000 = .lineWrPut 2 0x68 := by decide

theorem test_decode_more_requests :
    decodeReq 0b0110_0000_00000000_00000000_00000000 = .execLine
      ∧ decodeReq 0b0111_0000_00000000_00000000_00000000 = .tab
      ∧ decodeReq 0b1000_0000_00000000_00000000_00000011 = .lineRd 3
      ∧ decodeReq 0b1001_0000_00000000_00000000_00000001 = .tokRd 1
      ∧ decodeReq 0b1010_0000_00000000_00000000_00000000 = .cmdStat
      ∧ decodeReq 0b1011_0000_00000000_00000000_00000000 = .cmdDone
      ∧ decodeReq 0b1100_0000_00000011_00000000_00000000 = .status 3
      ∧ decodeReq 0b1101_0000_00000001_00000000_00000010 = .histRd 1 2
      ∧ decodeReq 0b1110_0000_00000000_00000000_00000101 = .reconf 5 := by decide

/-- R111, R114: each reserved field, and op 0xF. -/
theorem test_decode_illegal :
    decodeReq 0x01000000 = .illegal 0x01000000 ∧ decodeReq 0x28000041 = .illegal 0x28000041
      ∧ decodeReq 0x00000100 = .illegal 0x00000100 ∧ decodeReq 0x20008041 = .illegal 0x20008041
      ∧ decodeReq 0xF0000000 = .illegal 0xF0000000 := by decide

/-- Editor words: {esc, byte}. -/
theorem test_decode_editor_normal :
    decode .le10 false 0b00_00001001 = .instr (.leIgnore 0x09)
      ∧ decode .le10 false 0b00_00011011 = .instr .leEscEnter
      ∧ decode .le10 false 0b00_00001101 = .instr .leEnter
      ∧ decode .le10 false 0b00_01111111 = .instr (.leBackspace 0x7F)
      ∧ decode .le10 false 0b00_00001000 = .instr (.leBackspace 0x08)
      ∧ decode .le10 false 0b00_00100000 = .instr (.leInsert 0x20)
      ∧ decode .le10 true 0b00_01111110 = .instr (.leOverflow 0x7E) := by decide

theorem test_decode_editor_escape :
    decode .le10 false 0b01_01100001 = .instr (.leEscDrop 0x61)
      ∧ decode .le10 false 0b01_01011011 = .instr .leCsiEnter
      ∧ decode .le10 false 0b10_01000001 = .instr .leHistPrev
      ∧ decode .le10 false 0b10_01000010 = .instr .leHistNext
      ∧ decode .le10 false 0b10_01000011 = .instr .leCurRight
      ∧ decode .le10 false 0b10_01000100 = .instr .leCurLeft
      ∧ decode .le10 false 0b10_01000101 = .instr (.leCsiDrop 0x45)
      ∧ decode .le10 false 0b11_01000101 = .instr (.leIllegalEscState 0x45) := by decide

/-- R125's byte ranges at their ends, in Normal. -/
theorem test_decode_ignore_bounds :
    ∀ b ∈ ([0x00, 0x07, 0x09, 0x0C, 0x0E, 0x1A, 0x1C, 0x1F, 0x80, 0xFF] : List Byte),
      decodeLe false ((0 : BitVec 2) ++ b) = .leIgnore b ∧ decodeLe true ((0 : BitVec 2) ++ b) = .leIgnore b := by
  decide

theorem test_decode_csi_bounds :
    ∀ b ∈ ([0x00, 0x40, 0x45, 0xFF] : List Byte), decodeLe false ((2 : BitVec 2) ++ b) = .leCsiDrop b := by decide

/-- Port words: {rx_valid, rx_byte} and {tx_done}. -/
theorem test_decode_ports :
    decode .rxPort false 0b1_01100001 = .instr (.rxByte 0x61)
      ∧ decode .rxPort false 0b0_01100001 = .reject .noRxByte
      ∧ decode .txPort false 0b1 = .instr .txDone ∧ decode .txPort false 0b0 = .reject .noTxDone
      ∧ decode .le10 false 0x400 = .reject .tooWide := by decide

theorem test_decodeTableWord :
    decodeTableWord 32 0x3000000D = some (.leFeed 0x0D) ∧ decodeTableWord 16 0x11B = some (.leEscDrop 0x1B)
      ∧ decodeTableWord 9 0x161 = some (.rxByte 0x61) ∧ decodeTableWord 8 1 = some .txDone
      ∧ decodeTableWord 24 0 = none := by decide

/-! ## Small states -/

/-- The state an instruction leaves. -/
def after (i : Instr) (s : State) : State :=
  match exec i s with
  | .next t => t
  | .fault _ | .refused _ => s

/-- The state a step leaves. -/
def stepped (s : State) : State :=
  match step s with
  | .next t => t
  | .fault _ | .refused _ => s

/-- A storage that starts with the given bytes. -/
def stored (l : List Byte) : Memory := Memory.writeBytes [] 0 l

/-- A FIFO into which the bytes were pushed after reset, with every copy up to date. -/
def holding (c : FifoCfg) (l : List Byte) : Fifo :=
  let f := (Fifo.reset 2).pushAll c l
  { f with
    wpub := gray f.wptr
    wsync := [gray f.wptr, gray f.wptr] }

/-- Reset, with the bytes in the RX FIFO and in Core's view. -/
def received (l : List Byte) : State := { State.reset with rx := holding Config.vectors.rx l }

/-- Reset, with the bytes in the TX FIFO, in TxDom's view, and transmission enabled. -/
def queued (l : List Byte) : State :=
  { State.reset with
    tx := holding Config.vectors.tx l
    te.txEn := true
    te.enSync := [true, true] }

/-- Reset, with an edit line and a cursor. -/
def typed (l : List Byte) (cur : Nat) : State :=
  { State.reset with
    le.buf := stored l
    le.len := l.length
    le.cur := cur }

/-- Reset, with a dispatch line. -/
def loaded (l : List Byte) : State :=
  { State.reset with
    dp.dline := stored l
    dp.dlen := l.length }

/-- `"cmd1"` and `"cmd2"`. -/
def cmd1 : List Byte := [0x63, 0x6D, 0x64, 0x31]
def cmd2 : List Byte := [0x63, 0x6D, 0x64, 0x32]

/-- The history of 42_line_editor.md R268's example, browsed to a depth, with the line it shows. -/
def browsing (depth : Nat) (l : List Byte) : State :=
  { typed l l.length with
    le.esc := 2
    le.hist := [stored cmd1, stored cmd2, [], []]
    le.hlen := [4, 4, 0, 0]
    le.hw := 2
    le.hcount := 2
    le.hdepth := depth }

/-- Reset, with `"help"` handed off from the line editor. -/
def pendingHelp : State :=
  { loaded [0x68, 0x65, 0x6C, 0x70] with
    dp.argc := 1
    dp.tokStart := [0, 0, 0, 0]
    dp.tokLen := [4, 0, 0, 0]
    dp.pending := true
    dp.fromLe := true }

/-- What the TX FIFO has been given since reset. -/
def sent (s : State) : List Byte := s.tx.mem.slice 0 s.tx.wptr

/-! ## One step of each instruction, on the spec's worked examples -/

/-- 41_transport.md R211. -/
theorem test_nop_answers_zero : (stepped (offer (.core (some 0)) State.reset)).rsp = some 0 := by decide

/-- 41_transport.md R212. -/
theorem test_illegal_answers_illegal :
    (stepped (offer (.core (some 0x01000000)) State.reset)).rsp = some 0x40000000 := by decide

/-- 41_transport.md R220. -/
theorem test_rx_pop_in_order :
    (after .rxPop (received [0x61, 0x62])).rsp = some 0x00000061
      ∧ (after .rxPop (after .rxPop (received [0x61, 0x62]))).rsp = some 0x00000062 := by decide
theorem test_rx_pop_empty : (after .rxPop State.reset).rsp = some 0x10000000 := by decide

/-- 40_fifo_cdc.md R170's example: five bytes into N = 4, the oldest is discarded. -/
theorem test_rx_pop_discards_the_overwritten_byte :
    (after .rxPop (received [1, 2, 3, 4, 5])).rsp = some 0x00000002
      ∧ (after .rxPop (received [1, 2, 3, 4, 5])).rx.rptr = 2 := by decide

/-- 41_transport.md R221. -/
theorem test_tx_send_queues :
    (after (.txSend 0x4F) State.reset).rsp = some 1 ∧ (after (.txSend 0x4F) State.reset).tx.wptr = 1
      ∧ (after (.txSend 0x4F) State.reset).te.txEn = true := by decide

/-- 42_line_editor.md R250. -/
theorem test_le_feed_inserts :
    (after (.leFeed 0x61) State.reset).rsp = some 0x04000000
      ∧ editLine (after (.leFeed 0x61) State.reset) = [0x61]
      ∧ sent (after (.leFeed 0x61) State.reset) = [0x61] := by decide
theorem test_le_feed_busy : (after (.leFeed 0x61) pendingHelp).rsp = some 0x20000000 := by decide

/-- 42_line_editor.md R251. -/
theorem test_poll_enters :
    (after .poll (received [0x0D])).rsp = some 0x0200000D
      ∧ sent (after .poll (received [0x0D])) = [0x0D, 0x0A, 0x3E, 0x20] := by decide
theorem test_poll_empty : (after .poll State.reset).rsp = some 0x10000000 := by decide

/-- 43_dispatch.md R320, R321. -/
theorem test_line_wr_clr :
    (after .lineWrClr (loaded [0x68])).rsp = some 0 ∧ (after .lineWrClr (loaded [0x68])).dp.dlen = 0 := by
  decide
theorem test_line_wr_put :
    (after (.lineWrPut 1 0x68) State.reset).rsp = some 1
      ∧ dispatchLine (after (.lineWrPut 1 0x68) State.reset) = [0x68] := by decide
theorem test_line_wr_put_refusals :
    (after (.lineWrPut 2 0x68) pendingHelp).rsp = some 0x30000004
      ∧ (after (.lineWrPut 1 0x68) (loaded (List.replicate 15 0x61))).rsp = some 0x6000000F := by decide

/-- 43_dispatch.md R337. -/
theorem test_exec_dispatches :
    (after .execLine (loaded [0x6C, 0x65, 0x64, 0x20, 0x20, 0x6F, 0x6E])).rsp = some 0x02000204 := by
  decide
theorem test_exec_unknown :
    (after .execLine (loaded [0x48, 0x65, 0x6C, 0x70])).rsp = some 0x01000100
      ∧ sent (after .execLine (loaded [0x48, 0x65, 0x6C, 0x70])) = [0x3F, 0x0D, 0x0A] := by decide

/-- 43_dispatch.md R340, R344. -/
theorem test_tab_single_match :
    (after .tab (loaded [0x76, 0x65, 0x72])).rsp = some 0x01000103
      ∧ dispatchLine (after .tab (loaded [0x76, 0x65, 0x72])) = [0x76, 0x65, 0x72, 0x73, 0x69, 0x6F, 0x6E] := by
  decide
theorem test_tab_multiple_matches :
    (after .tab (loaded [0x68])).rsp = some 0x03000200
      ∧ sent (after .tab (loaded [0x68])) = [0x0D, 0x0A, 0x68, 0x65, 0x6C, 0x70, 0x0D, 0x0A,
          0x68, 0x69, 0x73, 0x74, 0x6F, 0x72, 0x79, 0x0D, 0x0A] := by decide +kernel

/-- 43_dispatch.md R322: with `"version"` loaded. -/
theorem test_line_rd :
    (after (.lineRd 0) (loaded [0x76, 0x65, 0x72, 0x73, 0x69, 0x6F, 0x6E])).rsp = some 0x00000776
      ∧ (after (.lineRd 7) (loaded [0x76, 0x65, 0x72, 0x73, 0x69, 0x6F, 0x6E])).rsp = some 0x30000700 := by
  decide

/-- 43_dispatch.md R350: after `RUN "led  on"`. -/
theorem test_tok_rd :
    (after (.tokRd 1) (after .execLine (loaded [0x6C, 0x65, 0x64, 0x20, 0x20, 0x6F, 0x6E]))).rsp
      = some 0x00020205 := by decide

/-- 43_dispatch.md R351, R355. -/
theorem test_cmd_stat : (after .cmdStat pendingHelp).rsp = some 0x03000100 := by decide
theorem test_cmd_done :
    (after .cmdDone pendingHelp).rsp = some 1 ∧ sent (after .cmdDone pendingHelp) = [0x3E, 0x20]
      ∧ (after .cmdDone pendingHelp).dp.pending = false := by decide

/-- 41_transport.md R224. -/
theorem test_status_editor :
    (after (.status 3) State.reset).rsp = some 0 ∧ (after (.status 3) (typed [0x61, 0x62] 1)).rsp = some 0x00000201
      ∧ (after (.status 5) State.reset).rsp = some 1 := by decide
theorem test_status_range : (after (.status 7) State.reset).rsp = some 0x30000000 := by decide

/-- 42_line_editor.md R276. -/
theorem test_hist_rd :
    (after (.histRd 1 3) (browsing 0 [])).rsp = some 0x00000431
      ∧ (after (.histRd 1 4) (browsing 0 [])).rsp = some 0x30000400
      ∧ (after (.histRd 2 0) (browsing 0 [])).rsp = some 0x30000000 := by decide

/-- 41_transport.md R230: for either init result, and the refused rate. -/
theorem test_reconf_results :
    (reinit 5 true (quiesce State.reset)).rsp = some 0x00000005 ∧ (reinit 5 true (quiesce State.reset)).baud = 5
      ∧ (reinit 5 false (quiesce State.reset)).rsp = some 0x50000001
      ∧ (reinit 5 false (quiesce State.reset)).baud = 1 := by decide
theorem test_reconf_refused_rate : (after (.reconf 0) State.reset).rsp = some 0x50000001 := by decide

/-- 42_line_editor.md R260. -/
theorem test_ignore_tab :
    (after (.leFeed 0x09) (typed [0x61] 1)).rsp = some 0
      ∧ editLine (after (.leIgnore 0x09) (typed [0x61] 1)) = [0x61] := by decide

/-- 42_line_editor.md R261, R266, R267, R272, by their examples. -/
theorem test_escape_bytes :
    (after (.leFeed 0x1B) State.reset).rsp = some 0x01010000
      ∧ (after (.leFeed 0x78) { State.reset with le.esc := 1 }).rsp = some 0x06000000
      ∧ (after (.leFeed 0x5B) { State.reset with le.esc := 1 }).rsp = some 0x07020000
      ∧ (after (.leFeed 0x33) { State.reset with le.esc := 2 }).rsp = some 0x0C000000 := by decide
theorem test_escape_actions :
    (after .leEscEnter State.reset).le.esc = 1 ∧ (after .leCsiEnter { State.reset with le.esc := 1 }).le.esc = 2
      ∧ (after (.leEscDrop 0x78) { State.reset with le.esc := 1 }).le.esc = 0
      ∧ (after (.leCsiDrop 0x33) { State.reset with le.esc := 2 }).le.esc = 0 := by decide

/-- 42_line_editor.md R262's example. -/
theorem test_enter_hands_off_help :
    let t := after .leEnter (typed [0x68, 0x65, 0x6C, 0x70] 4)
    sent t = [0x0D, 0x0A] ∧ histLine 0 t = [0x68, 0x65, 0x6C, 0x70] ∧ t.le.hw = 1 ∧ t.le.hcount = 1
      ∧ dispatchLine t = [0x68, 0x65, 0x6C, 0x70] ∧ t.le.len = 0
      ∧ t.dp.pending = true ∧ t.dp.cmdIndex = 0 := by decide
/-- 42_line_editor.md R262: a line equal to the newest entry is not committed. -/
theorem test_enter_keeps_no_duplicate :
    (after .leEnter { browsing 1 cmd2 with le.esc := 0 }).le.hcount = 2 := by decide

/-- 42_line_editor.md R263's example. -/
theorem test_backspace_inside_the_line :
    let t := after (.leBackspace 0x7F) (typed [0x61, 0x62, 0x63] 1)
    editLine t = [0x62, 0x63] ∧ t.le.cur = 0 ∧ sent t = [0x08, 0x62, 0x63, 0x20, 0x08, 0x08, 0x08] := by
  decide

/-- 42_line_editor.md R264's example. -/
theorem test_insert_inside_the_line :
    let t := after (.leInsert 0x62) (typed [0x61, 0x63] 1)
    editLine t = [0x61, 0x62, 0x63] ∧ t.le.cur = 2 ∧ sent t = [0x62, 0x63, 0x08] := by decide

/-- 42_line_editor.md R265's example. -/
theorem test_overflow_discards :
    let t := after (.leOverflow 0x78) (typed (List.replicate 15 0x61) 15)
    t.le.len = 0 ∧ sent t = [0x21, 0x0D, 0x0A, 0x3E, 0x20] := by decide

/-- 42_line_editor.md R268's example. -/
theorem test_hist_prev :
    let t := after .leHistPrev (browsing 0 [])
    editLine t = cmd2 ∧ t.le.cur = 4 ∧ t.le.hdepth = 1 ∧ sent t = cmd2 := by decide
theorem test_hist_prev_at_the_oldest :
    let t := after .leHistPrev (browsing 2 cmd1)
    editLine t = cmd1 ∧ t.le.hdepth = 2 ∧ sent t = [] ∧ t.le.esc = 0 := by decide

/-- 42_line_editor.md R269's example. -/
theorem test_hist_next :
    let t := after .leHistNext (browsing 2 cmd1)
    editLine t = cmd2 ∧ t.le.hdepth = 1
      ∧ sent t = List.replicate 4 0x08 ++ List.replicate 4 0x20 ++ List.replicate 4 0x08 ++ cmd2 := by decide
theorem test_hist_next_to_the_empty_line :
    (after .leHistNext (browsing 1 cmd2)).le.len = 0 ∧ (after .leHistNext (browsing 1 cmd2)).le.hdepth = 0 := by
  decide

/-- 42_line_editor.md R270, R271, by their examples. -/
theorem test_cursor_right :
    (after .leCurRight (typed [0x61, 0x62] 0)).le.cur = 1 ∧ sent (after .leCurRight (typed [0x61, 0x62] 0)) = [0x61]
      ∧ sent (after .leCurRight (typed [0x61, 0x62] 2)) = [] := by decide
theorem test_cursor_left :
    (after .leCurLeft (typed [0x61, 0x62] 2)).le.cur = 1 ∧ sent (after .leCurLeft (typed [0x61, 0x62] 2)) = [0x08]
      ∧ sent (after .leCurLeft (typed [0x61, 0x62] 0)) = [] := by decide

/-- 30_encoding.md R118, R119: the codes the other examples do not show, 3, 5, 8, 9, 10 and 11 at [27:24]. -/
theorem test_action_codes_of_line_bytes :
    (after (.leFeed 0x7F) (typed [0x61] 1)).rsp = some 0x03000000
      ∧ (after (.leFeed 0x78) (typed (List.replicate 15 0x61) 15)).rsp = some 0x05000000 := by decide
theorem test_action_codes_of_keys :
    (after (.leFeed 0x41) (browsing 0 [])).rsp = some 0x08000000
      ∧ (after (.leFeed 0x42) (browsing 1 cmd2)).rsp = some 0x09000000
      ∧ (after (.leFeed 0x43) (browsing 0 [])).rsp = some 0x0A000000
      ∧ (after (.leFeed 0x44) (browsing 1 cmd2)).rsp = some 0x0B000000 := by decide

/-- 30_encoding.md R126. -/
theorem test_illegal_esc_state :
    (after (.leIllegalEscState 0x61) { State.reset with le.esc := 3 }).g.fault = some .illegalEscState := by
  decide

/-- 41_transport.md R200's example. -/
theorem test_rx_byte :
    (after (.rxByte 0x61) State.reset).rx.mem.read 0 = 0x61 ∧ (after (.rxByte 0x61) State.reset).rx.wptr = 1 := by
  decide
/-- 40_fifo_cdc.md R151: the push at lead `2^PW - 1 = 7`. -/
theorem test_rx_byte_lap :
    let t := after (.rxByte 0x68) (received [1, 2, 3, 4, 5, 6, 7])
    t.rx.lapErr = true ∧ t.g.fault = some .lapOverrun ∧ t.rx.mem.read 3 = 0x68 ∧ t.rx.wptr = 0 := by decide

/-- 41_transport.md R203's example. -/
theorem test_tx_done :
    let t := after .txDone { queued [0x4B] with te.busy := true }
    t.txStart = some 0x4B ∧ t.g.txlog = [0x4B] ∧ t.te.busy = true ∧ (after .txDone t).te.busy = false := by
  decide
/-- 41_transport.md R204: the idle start. -/
theorem test_idle_start : (stepped (offer (.tx false) (queued [0x4B]))).g.txlog = [0x4B] := by decide

/-- 40_fifo_cdc.md R150's, R160's and R161's examples. -/
theorem test_crossing_examples :
    publish ⟨2, 3⟩ 6 0b110 = 0b111 ∧ publish ⟨2, 3⟩ 6 0b111 = 0b101
      ∧ syncShift (gray 2) [gray 1, gray 0] = [gray 2, gray 1]
      ∧ ({ Fifo.reset 2 with wptr := 5, rsync := [0b010, 0b010] } : Fifo).leadW ⟨2, 3⟩ = 2 := by decide

/-- Where the host places a word, the next step runs it. -/
theorem test_withFetchWord :
    (stepped (State.reset.withFetchWord 32 0x2000004F)).tx.wptr = 1
      ∧ (stepped (State.reset.withFetchWord 16 0x15B)).le.esc = 2
      ∧ (stepped (State.reset.withFetchWord 9 0x161)).rx.wptr = 1
      ∧ (stepped (State.reset.withFetchWord 8 1)).te.busy = false := by decide

/-! ## Witnesses: for each statement with hypotheses, concrete values that meet them, clause by clause -/

/-! ### Encoding -/

theorem witness_DecodeOfEncodeIsTheInstruction :
    (Instr.lineWrPut 255 0).wf = true ∧ (Instr.leBackspace 0x7F).wf = true ∧ (Instr.leOverflow 0x7E).wf = true
      ∧ (Instr.illegal 0xFFFFFFFF).wf = true := by decide

theorem witness_RejectedWordsAnswerIllegal :
    (0x01000000 : Word).extractLsb' 24 4 ≠ 0 ∧ (0x00008000 : Word).extractLsb' 8 8 ≠ 0
      ∧ (0xF0000000 : Word).extractLsb' 28 4 = 0xF := by decide

theorem witness_UnneededFieldsAreIgnored :
    (0x08000000 : Word).extractLsb' 24 4 ≠ 0 ∧ (0x00000100 : Word).extractLsb' 8 8 ≠ 0
      ∧ (0xB : BitVec 4) ∈ ([0x0, 0x1, 0x4, 0x6, 0x7, 0xA, 0xB] : List (BitVec 4))
      ∧ (0xE : BitVec 4) ∈ ([0x2, 0x3, 0x8, 0x9, 0xE] : List (BitVec 4)) := by decide

/-- The ends of the printable range and of the ranges IGNORE takes. -/
theorem witness_EditorDecodeFollowsTheTable :
    (0x20 ≤ (0x20 : Byte).toNat ∧ (0x7E : Byte).toNat ≤ 0x7E)
      ∧ (0x07 : Byte).toNat ≤ 0x07 ∧ (0x09 ≤ (0x09 : Byte).toNat ∧ (0x0C : Byte).toNat ≤ 0x0C)
      ∧ (0x0E ≤ (0x0E : Byte).toNat ∧ (0x1A : Byte).toNat ≤ 0x1A)
      ∧ (0x1C ≤ (0x1C : Byte).toNat ∧ (0x1F : Byte).toNat ≤ 0x1F) ∧ 0x80 ≤ (0x80 : Byte).toNat
      ∧ (0x5A : Byte) ≠ 0x5B ∧ (0x40 : Byte).toNat < 0x41 ∧ 0x44 < (0x45 : Byte).toNat := by decide

/-! ### Steps -/

/-- Two bytes received, with a tick offered. -/
def ready (t : Tick) : State := offer t (received [0x61, 0x62])

theorem witness_StepRunsTheOfferedInstruction :
    (ready (.core (some 0x10000000))).env = [.core (some 0x10000000)] ∧ (ready (.rx (some 5))).env = [.rx (some 5)]
      ∧ ({ ready (.tx true) with te.busy := true }).env = [.tx true]
      ∧ ({ ready (.tx true) with te.busy := true }).te.busy = true ∧ (ready (.tx true)).te.busy = false
      ∧ (ready (.core none)).env = [.core none] ∧ (ready (.rx none)).env = [.rx none]
      ∧ (ready (.tx false)).env = [.tx false] ∧ State.reset.env = [] := by decide

/-- With nothing offered a step is a tick too, whichever domain the free value names. -/
theorem some_step_without_offer : State.reset.env = [] ∧ ∃ t, step State.reset = .next t := by
  refine ⟨rfl, ?_⟩
  rw [step_of_no_offer rfl]
  cases Config.freeAgent State.reset.draws <;> exact ⟨_, rfl⟩

/-- Each kind of tick; a RECONF word with a refused and with a valid rate code. -/
theorem witness_SynchronizersShiftInEveryTick :
    (nextTick (ready (.core (some 0xE0000000))) = .core (some 0xE0000000)
        ∧ (∃ t, step (ready (.core (some 0xE0000000))) = .next t)
        ∧ (∀ w d, some (0xE0000000 : Word) = some w → decodeReq w = .reconf d →
            d ∈ (ready (.core none)).cfg.baudRefused))
      ∧ (decodeReq 0xE0000005 = .reconf 5 ∧ (5 : Byte) ∉ (ready (.core none)).cfg.baudRefused
        ∧ (∃ t, step (ready (.core (some 0xE0000005))) = .next t))
      ∧ (nextTick (ready (.rx (some 5))) = .rx (some 5) ∧ ∃ t, step (ready (.rx (some 5))) = .next t)
      ∧ (nextTick (ready (.tx true)) = .tx true ∧ ∃ t, step (ready (.tx true)) = .next t)
      ∧ (State.reset.env = [] ∧ ∃ t, step State.reset = .next t) := by
  refine ⟨⟨rfl, ⟨_, rfl⟩, ?_⟩, ⟨by decide, by decide, ⟨_, rfl⟩⟩, ⟨rfl, ⟨_, rfl⟩⟩, ⟨rfl, ⟨_, rfl⟩⟩,
    some_step_without_offer⟩
  intro w d hw hd
  have h : Instr.reconf 0 = .reconf d := (show Instr.reconf 0 = decodeReq 0xE0000000 by decide).trans
    ((Option.some.inj hw) ▸ hd)
  exact (Instr.reconf.inj h) ▸ (by decide : (0 : Byte) ∈ Config.vectors.baudRefused)

theorem witness_DomainsOwnTheirFields :
    (nextTick (ready (.rx none)) = .rx none ∧ ∃ t, step (ready (.rx none)) = .next t)
      ∧ (nextTick (ready (.tx false)) = .tx false ∧ ∃ t, step (ready (.tx false)) = .next t)
      ∧ (nextTick (ready (.core (some 0x10000000))) = .core (some 0x10000000)
        ∧ (∃ t, step (ready (.core (some 0x10000000))) = .next t)
        ∧ ∀ d, decodeReq 0x10000000 ≠ .reconf d)
      ∧ (State.reset.env = [] ∧ ∃ t, step State.reset = .next t) :=
  ⟨⟨rfl, ⟨_, rfl⟩⟩, ⟨rfl, ⟨_, rfl⟩⟩,
    ⟨rfl, ⟨_, rfl⟩, fun _ h => Instr.noConfusion ((show Instr.rxPop = decodeReq 0x10000000 by decide).trans h)⟩,
    some_step_without_offer⟩

/-! ### Reset and the invariant -/

theorem witness_ResetRefusesIllegalConfigurations :
    LegalConfig Config.vectors ∧ ¬ LegalConfig { Config.vectors with depth := 1 }
      ∧ ¬ LegalConfig { Config.vectors with rx := ⟨0, 3⟩ } ∧ ¬ LegalConfig { Config.vectors with maxLen := 12 }
      ∧ LegalConfig { Config.vectors with maxLen := 13 } := by decide

/-- 40_fifo_cdc.md R160, R171: after a discard has jumped the pointer from 0 to 3, its copy still passes the
codes of 1 and 2, which the pointer never held (log 22). -/
theorem test_publish_passes_jumped_values :
    publish ⟨1, 2⟩ 3 (gray 0) = gray 1 ∧ publish ⟨1, 2⟩ 3 (gray 1) = gray 2
      ∧ publish ⟨1, 2⟩ 3 (gray 2) = gray 3 := by decide

theorem witness_ResetSatisfiesTheInvariant : LegalConfig Config.vectors := by decide

theorem legal_vectors : LegalConfig Config.vectors := witness_ResetSatisfiesTheInvariant

theorem witness_EveryStepKeepsTheInvariant :
    Inv (ready (.core (some 0x40000000))) ∧ (∃ t, step (ready (.core (some 0x40000000))) = .next t) :=
  ⟨⟨legal_vectors, by decide⟩, ⟨_, rfl⟩⟩

theorem witness_EveryStepKeepsHistoryDistinct :
    Inv (browsing 2 cmd1) ∧ HistoryDistinct (browsing 2 cmd1)
      ∧ ¬ HistoryDistinct { browsing 2 cmd1 with le.hist := [stored cmd1, stored cmd1, [], []] }
      ∧ (∃ t, step (offer (.core (some 0x30000041)) (browsing 2 cmd1)) = .next t) :=
  ⟨⟨legal_vectors, by decide⟩, by decide, by decide, ⟨_, rfl⟩⟩

theorem witness_QuiescentStatesStayQuiescent :
    (Inv (offer (.tx true) State.reset) ∧ Quiescent (offer (.tx true) State.reset))
      ∧ (Inv State.reset ∧ Quiescent State.reset) ∧ ¬ Quiescent (received [0x61]) :=
  ⟨⟨⟨legal_vectors, by decide⟩, by decide⟩, ⟨⟨legal_vectors, by decide⟩, by decide⟩, by decide⟩

/-! ### Gray code and the FIFO -/

theorem witness_GrayCodeLaws : 1 ≤ 3 ∧ 7 < 2 ^ 3 ∧ 4 < 2 ^ 3 ∧ 1 + 1 < 3 := by decide

theorem witness_PublisherMovesOneCodeStep :
    (∃ t, step (ready (.core none)) = .next t) ∧ (∃ t, step (ready (.rx none)) = .next t)
      ∧ (∃ t, step (ready (.tx true)) = .next t) ∧ (State.reset.env = [] ∧ ∃ t, step State.reset = .next t)
      ∧ 1 ≤ (FifoCfg.mk 2 3).pw ∧ 6 < 2 ^ 3 ∧ 4 < 2 ^ 3 ∧ 2 ≤ subMod 6 4 (2 ^ 3) ∧ subMod 6 4 (2 ^ 3) ≤ 2 :=
  ⟨⟨_, rfl⟩, ⟨_, rfl⟩, ⟨_, rfl⟩, some_step_without_offer, by decide⟩

theorem witness_RxBytePushesTheByte :
    (received [1, 2, 3, 4, 5, 6]).rx.leadW Config.vectors.rx ≠ 2 ^ Config.vectors.rx.pw - 1
      ∧ (received [1, 2, 3, 4, 5, 6, 7]).rx.leadW Config.vectors.rx = 2 ^ Config.vectors.rx.pw - 1 := by decide

theorem witness_TxSendQueuesTheByte :
    ({ State.reset with tx.wptr := 126 }).tx.leadW Config.vectors.tx ≠ 2 ^ Config.vectors.tx.pw - 1
      ∧ ({ State.reset with tx.wptr := 127 }).tx.leadW Config.vectors.tx = 2 ^ Config.vectors.tx.pw - 1 := by decide

/-- Five bytes into N = 4: byte 1 is still stored, byte 0 is not; one byte leaves cell 3 alone. -/
theorem witness_EmitPushesInOrder :
    Config.vectors.tx.aw ≤ Config.vectors.tx.pw ∧ (5 ≤ 1 + 2 ^ 2 ∧ 1 < 5)
      ∧ ∀ i < [0x61].length, (State.reset.tx.wptr + i) % 2 ^ Config.vectors.tx.aw ≠ 3 := by decide

/-- A FIFO whose read side saw one byte before four more went over it. -/
def overtaken : Fifo := { holding ⟨2, 3⟩ [1, 2, 3, 4, 5] with wsync := [gray 1, gray 1] }

theorem witness_PopFollowsTheRule :
    (Fifo.reset 2).leadR ⟨2, 3⟩ = 0
      ∧ ((holding ⟨2, 3⟩ [1, 2, 3, 4]).leadR ⟨2, 3⟩ = 4
          ∧ lookupKey (holding ⟨2, 3⟩ [1, 2, 3, 4]).ghost.tag 0 = some 0)
      ∧ ((holding ⟨2, 3⟩ [1, 2, 3, 4, 5]).leadR ⟨2, 3⟩ = 5
          ∧ lookupKey (holding ⟨2, 3⟩ [1, 2, 3, 4, 5]).ghost.tag 1 = some 1)
      ∧ (overtaken.leadR ⟨2, 3⟩ = 1 ∧ lookupKey overtaken.ghost.tag 0 ≠ some 0) := by decide

theorem witness_RxPopAnswersTheByte :
    (State.reset.rx.pop Config.vectors.rx (Config.freeByte 0)).byte = none
      ∧ ((received [0x61]).rx.pop Config.vectors.rx (Config.freeByte 0)).byte = some 0x61
      ∧ ((received [0x61]).rx.pop Config.vectors.rx (Config.freeByte 0)).raced = false
      ∧ (overtaken.pop Config.vectors.rx (Config.freeByte 0)).byte = some (Config.freeByte 0)
      ∧ (overtaken.pop Config.vectors.rx (Config.freeByte 0)).raced = true :=
  ⟨rfl, rfl, rfl, rfl, rfl⟩

/-- A TX FIFO overtaken in the same way, with the small sizes. -/
def overtakenTx (busy : Bool) : State :=
  { queued [] with
    cfg := { Config.vectors with tx := ⟨2, 3⟩ }
    tx := overtaken
    te.busy := busy }

theorem witness_TxDoneDrivesTheChain :
    State.reset.te.busy = false
      ∧ ((queued []).tx.pop Config.vectors.tx (Config.freeByte 0)).byte = none
      ∧ ((queued [0x4B]).tx.pop Config.vectors.tx (Config.freeByte 0)).byte = some 0x4B
      ∧ ((queued [0x4B]).tx.pop Config.vectors.tx (Config.freeByte 0)).raced = false
      ∧ (overtakenTx true).te.busy = true
      ∧ ((overtakenTx true).tx.pop (overtakenTx true).cfg.tx (Config.freeByte 0)).byte = some (Config.freeByte 0)
      ∧ ((overtakenTx true).tx.pop (overtakenTx true).cfg.tx (Config.freeByte 0)).raced = true :=
  ⟨rfl, rfl, rfl, rfl, rfl, rfl, rfl⟩

theorem witness_IdleEngineStartsTheNextByte :
    let u := txPhases (queued [0x4B])
    let v := txPhases { overtakenTx false with tx.wpub := gray 1 }
    (u.te.busy = false ∧ u.te.enSync.getLastD false = true
        ∧ (u.tx.pop u.cfg.tx (Config.freeByte 0)).byte = some 0x4B
        ∧ (u.tx.pop u.cfg.tx (Config.freeByte 0)).raced = false)
      ∧ (v.te.busy = false ∧ v.te.enSync.getLastD false = true
        ∧ (v.tx.pop v.cfg.tx (Config.freeByte 0)).byte = some (Config.freeByte 0)
        ∧ (v.tx.pop v.cfg.tx (Config.freeByte 0)).raced = true)
      ∧ (txPhases State.reset).te.enSync.getLastD false = false
      ∧ ((txPhases (queued [])).tx.pop Config.vectors.tx (Config.freeByte 0)).byte = none :=
  ⟨⟨rfl, rfl, rfl, rfl⟩, ⟨rfl, rfl, rfl, rfl⟩, rfl, rfl⟩

theorem witness_ViewsBracketTheTrueCount :
    Inv (received [1, 2, 3, 4, 5]) ∧ (received [1, 2, 3, 4, 5]).g.fault = none
      ∧ (received [1, 2, 3, 4, 5]).rx.absFull Config.vectors.rx = true
      ∧ State.reset.rx.emptyW Config.vectors.rx = true
      ∧ (received [1, 2, 3, 4, 5]).rx.fullR Config.vectors.rx = true :=
  ⟨⟨legal_vectors, by decide⟩, by decide⟩

theorem witness_SourceCountFormulaHolds :
    Inv (received [1, 2, 3, 4, 5]) ∧ (received [1, 2, 3, 4, 5]).rx.absFull Config.vectors.rx = true
      ∧ Inv (received [1, 2]) ∧ (received [1, 2]).rx.absFull Config.vectors.rx = false :=
  ⟨⟨legal_vectors, by decide⟩, by decide, ⟨legal_vectors, by decide⟩, by decide⟩

theorem witness_RaceExactlyWhenLeadExceedsCapacity :
    Inv { State.reset with rx := overtaken } ∧ overtaken.leadR Config.vectors.rx ≠ 0
      ∧ Inv (received [1, 2, 3, 4, 5]) ∧ (received [1, 2, 3, 4, 5]).rx.leadR Config.vectors.rx ≠ 0 :=
  ⟨⟨legal_vectors, by decide⟩, by decide, ⟨legal_vectors, by decide⟩, by decide⟩

theorem witness_DrainYieldsTheLastBytesPushed :
    LegalFifo ⟨2, 3⟩ ∧ (Fifo.reset 2).wptr = (Fifo.reset 2).ghost.wabs % 2 ^ 3
      ∧ (Fifo.reset 2).rptr = (Fifo.reset 2).wptr ∧ (Fifo.reset 2).ghost.rabs = (Fifo.reset 2).ghost.wabs
      ∧ (Fifo.reset 2).wsync ≠ [] ∧ ([1, 2, 3, 4, 5, 6, 7] : List Byte).length ≤ 2 ^ 3 - 1 := by decide

/-! ### Requests -/

theorem witness_NopAnswersOk :
    decodeReq 0x00AA0055 = .nop ∧ (∃ u, step (ready (.core none)) = .next u) := ⟨by decide, ⟨_, rfl⟩⟩

theorem witness_StatusReportsTheSelectedFields : LegalConfig State.reset.cfg ∧ 7 ≤ (7 : Byte).toNat :=
  ⟨legal_vectors, by decide⟩

theorem witness_Reconf : (0 : Byte) ∈ State.reset.cfg.baudRefused ∧ (5 : Byte) ∉ State.reset.cfg.baudRefused := by
  decide

theorem witness_LineWr :
    pendingHelp.dp.pending = true ∧ State.reset.dp.pending = false ∧ (2 ≤ (2 : Byte).toNat ∧ (1 : Byte).toNat < 2)
      ∧ (loaded (List.replicate 15 0x61)).dp.dlen = Config.vectors.maxLen - 1
      ∧ (loaded (List.replicate 14 0x61)).dp.dlen ≠ Config.vectors.maxLen - 1 := by decide

theorem witness_LineRdReadsOneByte :
    (loaded [0x61, 0x62]).dp.dlen ≤ (2 : Byte).toNat ∧ (1 : Byte).toNat < (loaded [0x61, 0x62]).dp.dlen := by decide

theorem witness_TokRdReadsOneToken :
    pendingHelp.dp.argc ≤ (1 : Byte).toNat ∧ (0 : Byte).toNat < pendingHelp.dp.argc := by decide

theorem witness_CmdDoneEndsTheHandOff :
    State.reset.dp.pending = false ∧ pendingHelp.dp.pending = true ∧ pendingHelp.dp.fromLe = true
      ∧ ({ pendingHelp with dp.fromLe := false }).dp.fromLe = false := by decide

theorem witness_TokensAreTheFirstMaximalRuns : (loaded [0x20, 0x61]).dp.pending = false := by decide

/-- A text that is no name has no index. -/
theorem no_name {table : List (List Byte)} {t : List Byte} (h : t ∉ table) : ∀ i, ¬ FirstNamed table t i :=
  fun _ hi => h (List.mem_of_getElem? hi.1)

/-- A partial that no name begins has no index. -/
theorem no_prefix {table : List (List Byte)} {p : List Byte} (h : ∀ nm ∈ table, ¬ nm <+: p) :
    ∀ i, ¬ FirstPrefixOf table p i :=
  fun _ ⟨⟨nm, hi, hp⟩, _⟩ => h nm (List.mem_of_getElem? hi) hp

/-- The candidates, checked index by index. -/
theorem candidates_of_check {table : List (List Byte)} {p : List Byte} {cs : List Nat}
    (hc : ∀ i ∈ cs, i < table.length) (h : ∀ i ∈ List.range table.length, i ∈ cs ↔ p <+: table.getD i []) :
    ∀ i, i ∈ cs ↔ ∃ nm, table[i]? = some nm ∧ p <+: nm := by
  intro i
  by_cases hi : i < table.length
  · have := h i (List.mem_range.2 hi)
    simpa [List.getD_eq_getElem?_getD, hi] using this
  · exact ⟨fun hm => absurd (hc i hm) hi, fun ⟨nm, hn, _⟩ => by simp [hi] at hn⟩

theorem witness_ExecRunsTheDispatchLine :
    pendingHelp.dp.pending = true
      ∧ ((scanTokens (dispatchLine (loaded [0x20, 0x20])) 0 none).take 4 = [])
      ∧ ((scanTokens (dispatchLine (loaded [0x48, 0x65, 0x6C, 0x70])) 0 none).take 4 = [(0, 4)]
        ∧ ∀ i, ¬ FirstNamed Config.vectors.cmdTable ((loaded [0x48, 0x65, 0x6C, 0x70]).dp.dline.slice 0 4) i)
      ∧ ((scanTokens (dispatchLine (loaded [0x6C, 0x65, 0x64, 0x20, 0x20, 0x6F, 0x6E])) 0 none).take 4
          = [(0, 3), (5, 2)]
        ∧ FirstNamed Config.vectors.cmdTable
            ((loaded [0x6C, 0x65, 0x64, 0x20, 0x20, 0x6F, 0x6E]).dp.dline.slice 0 3) 4) :=
  ⟨by decide, by decide, ⟨by decide, no_name (by decide)⟩, by decide, by decide⟩

theorem witness_TabShowsHelpForACompleteName :
    LegalConfig (loaded [0x68, 0x65, 0x6C, 0x70, 0x78]).cfg ∧ (loaded [0x68, 0x65, 0x6C, 0x70, 0x78]).dp.dlen ≠ 0
      ∧ (loaded [0x68, 0x65, 0x6C, 0x70, 0x78]).dp.pending = false
      ∧ Config.vectors.cmdTable[0]? = some [0x68, 0x65, 0x6C, 0x70]
      ∧ FirstPrefixOf Config.vectors.cmdTable (dispatchLine (loaded [0x68, 0x65, 0x6C, 0x70, 0x78])) 0 :=
  ⟨legal_vectors, by decide, by decide, by decide, ⟨_, rfl, by decide⟩, fun _ hj => absurd hj (Nat.not_lt_zero _)⟩

/-- The same partial with K = 1, where one token is kept (log 18). -/
theorem witness_TabShowsHelpForACompleteName_with_one_token :
    let s := { loaded [0x68, 0x65, 0x6C, 0x70, 0x78] with cfg := { Config.vectors with maxTok := 1 } }
    LegalConfig s.cfg ∧ s.dp.dlen ≠ 0 ∧ s.dp.pending = false ∧ s.cfg.cmdTable[0]? = some [0x68, 0x65, 0x6C, 0x70]
      ∧ FirstPrefixOf s.cfg.cmdTable (dispatchLine s) 0 ∧ (after .tab s).dp.argc = 1 :=
  ⟨by decide, by decide, by decide, by decide,
    ⟨⟨_, rfl, by decide⟩, fun _ hj => absurd hj (Nat.not_lt_zero _)⟩, by decide⟩

/-- The partials "x", "ver" and "h". -/
theorem witness_TabCompletesByPrefix :
    (pendingHelp.dp.pending = true ∧ State.reset.dp.dlen = 0 ∧ State.reset.dp.pending = false)
      ∧ ((∀ i, ¬ FirstPrefixOf Config.vectors.cmdTable (dispatchLine (loaded [0x78])) i)
        ∧ ∀ i, i ∈ ([] : List Nat) ↔
          ∃ nm, Config.vectors.cmdTable[i]? = some nm ∧ dispatchLine (loaded [0x78]) <+: nm)
      ∧ ((∀ i, ¬ FirstPrefixOf Config.vectors.cmdTable (dispatchLine (loaded [0x76, 0x65, 0x72])) i)
        ∧ ∀ i, i ∈ [3] ↔
          ∃ nm, Config.vectors.cmdTable[i]? = some nm ∧ dispatchLine (loaded [0x76, 0x65, 0x72]) <+: nm)
      ∧ ((∀ i, ¬ FirstPrefixOf Config.vectors.cmdTable (dispatchLine (loaded [0x68])) i)
        ∧ [0, 2].Pairwise (· < ·)
        ∧ ∀ i, i ∈ [0, 2] ↔
          ∃ nm, Config.vectors.cmdTable[i]? = some nm ∧ dispatchLine (loaded [0x68]) <+: nm) :=
  ⟨by decide, ⟨no_prefix (by decide), candidates_of_check (by decide) (by decide)⟩,
    ⟨no_prefix (by decide), candidates_of_check (by decide) (by decide)⟩,
    no_prefix (by decide), by decide, candidates_of_check (by decide) (by decide)⟩

/-! ### The line editor -/

theorem witness_FeedRunsTheSelectedAction :
    pendingHelp.dp.pending = true ∧ State.reset.dp.pending = false ∧ State.reset.le.esc ≠ 3 ∧ (browsing 0 []).le.esc ≠ 3 := by decide

theorem witness_PollFeedsThePoppedByte :
    pendingHelp.dp.pending = true ∧ State.reset.rx.leadR Config.vectors.rx = 0 ∧ (received [0x0D]).rx.leadR Config.vectors.rx ≠ 0
      ∧ (received [0x0D]).dp.pending = false ∧ (received [0x0D]).le.esc ≠ 3 := by decide

theorem witness_EscapeStateThreeRecordsTheFault :
    ({ received [0x61] with le.esc := 3 }).le.esc = 3 ∧ ({ received [0x61] with le.esc := 3 }).dp.pending = false
      ∧ ∃ u, popRx { received [0x61] with le.esc := 3 } = (some 0x61, u) := ⟨by decide, by decide, _, rfl⟩

/-- An empty line, a line that is no name, a name, and the newest entry again. -/
theorem witness_EnterFinalizesTheLine :
    (Inv (typed [] 0) ∧ (scanTokens (editLine (typed [] 0)) 0 none).take 4 = [])
      ∧ (Inv (typed [0x78] 1) ∧ (scanTokens (editLine (typed [0x78] 1)) 0 none).take 4 = [(0, 1)]
        ∧ ∀ i, ¬ FirstNamed Config.vectors.cmdTable ((typed [0x78] 1).le.buf.slice 0 1) i)
      ∧ (Inv (typed [0x6C, 0x65, 0x64] 0)
        ∧ (scanTokens (editLine (typed [0x6C, 0x65, 0x64] 0)) 0 none).take 4 = [(0, 3)]
        ∧ FirstNamed Config.vectors.cmdTable ((typed [0x6C, 0x65, 0x64] 0).le.buf.slice 0 3) 4)
      ∧ (Inv (browsing 1 cmd2) ∧ 0 < (browsing 1 cmd2).le.hcount
        ∧ histLine (slotBack 1 (browsing 1 cmd2)) (browsing 1 cmd2) = editLine (browsing 1 cmd2)) :=
  ⟨⟨⟨legal_vectors, by decide⟩, by decide⟩, ⟨⟨legal_vectors, by decide⟩, by decide, no_name (by decide)⟩,
    ⟨⟨legal_vectors, by decide⟩, by decide⟩, ⟨legal_vectors, by decide⟩, by decide⟩

theorem witness_BackspaceDeletesBeforeTheCursor :
    (Inv (typed [0x61, 0x62] 0) ∧ (typed [0x61, 0x62] 0).le.cur = 0)
      ∧ (Inv (typed [0x61, 0x62] 1) ∧ (typed [0x61, 0x62] 1).le.cur ≠ 0)
      ∧ (Inv (typed [0x61, 0x62] 2) ∧ (typed [0x61, 0x62] 2).le.cur ≠ 0) :=
  ⟨⟨⟨legal_vectors, by decide⟩, by decide⟩, ⟨⟨legal_vectors, by decide⟩, by decide⟩, ⟨legal_vectors, by decide⟩, by decide⟩

theorem witness_InsertPutsTheByteAtTheCursor :
    Inv (typed (List.replicate 14 0x61) 3) ∧ (typed (List.replicate 14 0x61) 3).le.len ≠ Config.vectors.maxLen - 1 :=
  ⟨⟨legal_vectors, by decide⟩, by decide⟩

theorem witness_OverflowDiscardsTheLine :
    (typed (List.replicate 15 0x61) 3).le.len = Config.vectors.maxLen - 1 := by decide

theorem witness_HistoryKeys :
    (Inv (browsing 2 cmd1) ∧ (browsing 2 cmd1).le.hcount ≤ (browsing 2 cmd1).le.hdepth)
      ∧ (Inv (browsing 1 cmd2) ∧ (browsing 1 cmd2).le.hdepth < (browsing 1 cmd2).le.hcount)
      ∧ (Inv (browsing 0 []) ∧ (browsing 0 []).le.hdepth = 0)
      ∧ (browsing 1 cmd2).le.hdepth = 1 ∧ 2 ≤ (browsing 2 cmd1).le.hdepth :=
  ⟨⟨⟨legal_vectors, by decide⟩, by decide⟩, ⟨⟨legal_vectors, by decide⟩, by decide⟩,
    ⟨⟨legal_vectors, by decide⟩, by decide⟩, by decide, by decide⟩

theorem witness_CursorKeysMoveOneCell :
    (typed [0x61, 0x62] 1).le.cur < (typed [0x61, 0x62] 1).le.len
      ∧ (typed [0x61, 0x62] 2).le.len ≤ (typed [0x61, 0x62] 2).le.cur
      ∧ 0 < (typed [0x61, 0x62] 1).le.cur ∧ (typed [0x61, 0x62] 0).le.cur = 0 := by decide

theorem witness_HistRdReadsOneByte :
    (browsing 0 []).le.hcount ≤ (2 : Byte).toNat ∧ (1 : Byte).toNat < (browsing 0 []).le.hcount
      ∧ histLen (subMod 2 2 4) (browsing 0 []) ≤ (4 : Byte).toNat
      ∧ (3 : Byte).toNat < histLen (subMod 2 2 4) (browsing 0 []) := by decide

theorem witness_ActionCodesFollowTheTable :
    (received [0x0D]).dp.pending = false ∧ (received [0x0D]).rx.leadR (received [0x0D]).cfg.rx ≠ 0 := by decide

theorem witness_BackspaceUndoesInsert :
    Inv (typed [0x61, 0x62] 1) ∧ (typed [0x61, 0x62] 1).le.len ≠ Config.vectors.maxLen - 1 :=
  ⟨⟨legal_vectors, by decide⟩, by decide⟩

theorem witness_EmissionsStayInTheirBounds :
    Inv (browsing 1 cmd2) ∧ (∃ t, exec .leHistPrev (browsing 1 cmd2) = .next t)
      ∧ (∃ t, exec .leHistNext (browsing 1 cmd2) = .next t) ∧ (∃ t, exec (.leInsert 0x61) (browsing 1 cmd2) = .next t)
      ∧ (∃ t, exec (.leBackspace 0x08) (browsing 1 cmd2) = .next t) ∧ (∃ t, exec .leEnter (browsing 1 cmd2) = .next t)
      ∧ (∃ t, exec (.leOverflow 0x61) (typed (List.replicate 15 0x61) 15) = .next t)
      ∧ (∃ t, exec .tab (browsing 1 cmd2) = .next t) ∧ (∃ t, exec .cmdDone (browsing 1 cmd2) = .next t) :=
  ⟨⟨legal_vectors, by decide⟩, ⟨_, rfl⟩, ⟨_, rfl⟩, ⟨_, rfl⟩, ⟨_, rfl⟩, ⟨_, rfl⟩, ⟨_, rfl⟩, ⟨_, rfl⟩, ⟨_, rfl⟩⟩

end Sys2Proof.Tests
end

section
/-! The laws of the gray code (00_scope.md R20): `gray` and `bin` are inverse over every width, and an increment
changes one bit. -/

namespace Sys2Proof.Machine

/-! ## Bits and halves -/

theorem gray_testBit (b i : Nat) : (gray b).testBit i = (b.testBit i ^^ b.testBit (i + 1)) := by
  simp [gray, Nat.add_comm]

theorem gray_testBit_succ (b i : Nat) : (gray b).testBit (i + 1) = (gray (b / 2)).testBit i := by
  rw [gray_testBit, gray_testBit, Nat.testBit_succ, Nat.testBit_succ]

theorem gray_shiftRight_one (b : Nat) : gray b >>> 1 = gray (b >>> 1) := by
  simp [gray, Nat.shiftRight_xor_distrib]

theorem shiftRight_one_lt {w g : Nat} (h : g < 2 ^ (w + 1)) : g >>> 1 < 2 ^ w := by
  rw [Nat.shiftRight_one]
  omega

theorem gray_lt {w b : Nat} (h : b < 2 ^ w) : gray b < 2 ^ w :=
  Nat.xor_lt_two_pow h ((Nat.shiftRight_le b 1).trans_lt h)

theorem bin_lt {w g : Nat} (h : g < 2 ^ w) : bin w g < 2 ^ w := by
  induction w generalizing g with
  | zero => exact Nat.one_pos
  | succ w ih =>
    have hrest : bin w (g >>> 1) < 2 ^ (w + 1) :=
      (ih (shiftRight_one_lt h)).trans (Nat.pow_lt_pow_succ Nat.one_lt_two)
    exact Nat.xor_lt_two_pow h hrest

/-! ## `gray` and `bin` are inverse -/

theorem bin_gray {w b : Nat} (h : b < 2 ^ w) : bin w (gray b) = b := by
  induction w generalizing b with
  | zero => exact (Nat.lt_one_iff.1 h).symm
  | succ w ih =>
    calc bin (w + 1) (gray b)
        = gray b ^^^ bin w (gray (b >>> 1)) := by rw [bin, gray_shiftRight_one]
      _ = (b ^^^ b >>> 1) ^^^ b >>> 1 := by rw [ih (shiftRight_one_lt h), gray]
      _ = b := Nat.xor_xor_cancel_right b (b >>> 1)

/-- The upper bits of `bin` are `bin` of the upper bits. -/
theorem bin_shiftRight_one {w g : Nat} (h : g < 2 ^ (w + 1)) : bin (w + 1) g >>> 1 = bin w (g >>> 1) := by
  induction w generalizing g with
  | zero => simpa [bin] using shiftRight_one_lt h
  | succ w ih =>
    rw [bin, Nat.shiftRight_xor_distrib, ih (shiftRight_one_lt h), bin]

theorem gray_bin {w g : Nat} (h : g < 2 ^ w) : gray (bin w g) = g := by
  cases w with
  | zero => rw [Nat.lt_one_iff.1 h, bin, gray, Nat.zero_shiftRight, Nat.xor_zero]
  | succ w =>
    rw [gray, bin_shiftRight_one h, bin, Nat.xor_xor_cancel_right]

theorem bin_testBit {w g : Nat} (h : g < 2 ^ w) (i : Nat) :
    (bin w g).testBit i = ((bin w g).testBit (i + 1) ^^ g.testBit i) := by
  have hg : g.testBit i = ((bin w g).testBit i ^^ (bin w g).testBit (i + 1)) := by
    rw [← gray_testBit, gray_bin h]
  rw [hg]
  cases (bin w g).testBit i <;> simp

/-- `bin` copies the top bit, because bit w of a w-bit number is 0. -/
theorem bin_testBit_top {w g : Nat} (hw : 1 ≤ w) (h : g < 2 ^ w) :
    (bin w g).testBit (w - 1) = g.testBit (w - 1) := by
  have hbit : (bin w g).testBit w = false := Nat.testBit_lt_two_pow (bin_lt h)
  rw [bin_testBit h, Nat.sub_add_cancel hw, hbit, Bool.false_xor]

/-! ## An increment changes one bit -/

/-- Without a carry only bit 0 changes. -/
theorem gray_succ_of_even {b : Nat} (h : b % 2 = 0) : gray (b + 1) = gray b ^^^ 1 := by
  have hbit : b + 1 = b ^^^ 1 := (Nat.xor_one_of_even (Nat.even_iff.2 h)).symm
  have hhalf : (b + 1) >>> 1 = b >>> 1 := by
    rw [Nat.shiftRight_one, Nat.shiftRight_one]
    omega
  rw [gray, hhalf, hbit, gray, Nat.xor_right_comm]

/-- For `b` odd, `c` even and halves of different parity the gray codes agree in bit 0, so they differ in the one
bit where the halves' codes differ, one place up. -/
theorem gray_eq_of_halves {b c i : Nat} (hb : b % 2 = 1) (hc : c % 2 = 0) (hpar : c / 2 % 2 = 1 - b / 2 % 2)
    (h : gray (c / 2) = gray (b / 2) ^^^ 2 ^ i) : gray c = gray b ^^^ 2 ^ (i + 1) := by
  apply Nat.eq_of_testBit_eq
  intro j
  rw [Nat.testBit_xor, Nat.testBit_two_pow]
  cases j with
  | zero =>
    have hbit : c.testBit 1 = !b.testBit 1 := by
      rw [Nat.testBit_succ, Nat.testBit_succ, Nat.testBit_zero, Nat.testBit_zero, hpar]
      rcases Nat.mod_two_eq_zero_or_one (b / 2) with hhalf | hhalf <;> rw [hhalf] <;> rfl
    rw [gray_testBit, gray_testBit, hbit, Nat.testBit_zero, Nat.testBit_zero, hb, hc]
    simp
  | succ j =>
    rw [gray_testBit_succ, gray_testBit_succ, h, Nat.testBit_xor, Nat.testBit_two_pow]
    simp

/-- The gray code of a wrapping increment: an even number carries nothing, and of an odd one the half is
incremented. -/
theorem gray_succ_mod {w b : Nat} (hw : 1 ≤ w) (h : b < 2 ^ w) :
    ∃ i < w, gray ((b + 1) % 2 ^ w) = gray b ^^^ 2 ^ i := by
  induction w, hw using Nat.le_induction generalizing b with
  | base =>
    refine ⟨0, Nat.one_pos, ?_⟩
    interval_cases b <;> decide
  | succ w hw ih =>
    have hdvd : 2 ∣ 2 ^ w := dvd_pow_self 2 (Nat.one_le_iff_ne_zero.1 hw)
    by_cases hb : b % 2 = 0
    · have hlt : b + 1 < 2 ^ (w + 1) := by omega
      exact ⟨0, Nat.succ_pos w, by rw [Nat.mod_eq_of_lt hlt, gray_succ_of_even hb, Nat.pow_zero]⟩
    · obtain ⟨i, hi, hgray⟩ := ih (b := b / 2) (by omega)
      have hhalf : (b + 1) % 2 ^ (w + 1) / 2 = (b / 2 + 1) % 2 ^ w := by
        rw [Nat.pow_succ', Nat.mod_mul_right_div_self]
        congr 1
        omega
      have heven : (b + 1) % 2 ^ (w + 1) % 2 = 0 := by
        rw [Nat.mod_mod_of_dvd _ (dvd_pow_self 2 w.succ_ne_zero)]
        omega
      have hpar : (b + 1) % 2 ^ (w + 1) / 2 % 2 = 1 - b / 2 % 2 := by
        rw [hhalf, Nat.mod_mod_of_dvd _ hdvd]
        omega
      exact ⟨i + 1, Nat.succ_lt_succ hi, gray_eq_of_halves (by omega) heven hpar (hhalf ▸ hgray)⟩

end Sys2Proof.Machine

open Sys2Proof.Machine

/-- Settles O17: `bin` and `gray` undo each other by induction on the width, and an increment either flips bit 0
or is an increment of the half. -/
theorem grayCodeLaws : Obligations.GrayCodeLaws := by
  intro w hw
  exact ⟨fun b hb => ⟨rfl, gray_lt hb, bin_gray hb⟩,
    fun g hg => ⟨bin_lt hg, gray_bin hg, bin_testBit_top hw hg, fun i _ => bin_testBit hg i⟩,
    fun b hb => gray_succ_mod hw hb⟩

end

section
/-! `emit` as pushes in order (00_scope.md R19): what one byte does to the write side, then, by induction on the
string, what the string does. -/

namespace Sys2Proof.Machine

/-! ## One byte -/

@[simp] theorem emitByte_wptr (b : Byte) (s : State) :
    (emitByte b s).tx.wptr = (s.tx.wptr + 1) % 2 ^ s.cfg.tx.pw := by
  rw [emitByte_tx, Fifo.push_touches, FifoCfg.modulus]

@[simp] theorem emitByte_wabs (b : Byte) (s : State) :
    (emitByte b s).tx.ghost.wabs = s.tx.ghost.wabs + 1 := by
  rw [emitByte_tx, Fifo.push_touches]

@[simp] theorem emitByte_txEn (b : Byte) (s : State) : (emitByte b s).te.txEn = true := by
  rw [emitByte_eq]

@[simp] theorem emitByte_read (b : Byte) (s : State) (a : Nat) :
    (emitByte b s).tx.mem.read a = if a = s.tx.wptr % 2 ^ s.cfg.tx.aw then b else s.tx.mem.read a := by
  rw [emitByte_tx, Fifo.push_touches, Memory.read_write, FifoCfg.cap]

/-- TX_SEND (41_transport.md R221) is one byte of `emit`, answered. -/
theorem exec_txSend (b : Byte) (s : State) :
    exec (.txSend b) s = .next (answer 0x00000001 (emitByte b s)) := rfl

/-- The cells written after the first byte are those at offsets 1 and up: the pointer's wrap at 2^PW does not
change its cell, because N divides 2^PW. -/
theorem emitByte_cell {s : State} (h : s.cfg.tx.aw ≤ s.cfg.tx.pw) (b : Byte) (i : Nat) :
    ((emitByte b s).tx.wptr + i) % 2 ^ (emitByte b s).cfg.tx.aw = (s.tx.wptr + (i + 1)) % 2 ^ s.cfg.tx.aw := by
  rw [emitByte_wptr, emitByte_cfg, Nat.add_mod, Nat.mod_mod_of_dvd _ (pow_dvd_pow 2 h), ← Nat.add_mod, Nat.add_assoc,
    Nat.add_comm 1 i]

/-! ## A string -/

theorem emit_wptr (l : List Byte) (s : State) :
    (emit l s).tx.wptr = if l = [] then s.tx.wptr else (s.tx.wptr + l.length) % 2 ^ s.cfg.tx.pw := by
  induction l generalizing s with
  | nil => rfl
  | cons b rest ih =>
    rw [emit_cons, ih, emitByte_wptr, emitByte_cfg, if_neg (List.cons_ne_nil b rest)]
    by_cases hrest : rest = []
    · rw [if_pos hrest, hrest, List.length_singleton]
    · rw [if_neg hrest, Nat.mod_add_mod, List.length_cons, Nat.add_assoc, Nat.add_comm 1]

theorem emit_wabs (l : List Byte) (s : State) :
    (emit l s).tx.ghost.wabs = s.tx.ghost.wabs + l.length := by
  induction l generalizing s with
  | nil => rfl
  | cons b rest ih => rw [emit_cons, ih, emitByte_wabs, List.length_cons, Nat.add_assoc, Nat.add_comm 1]

theorem emit_txEn (l : List Byte) (s : State) : (emit l s).te.txEn = (s.te.txEn || decide (l ≠ [])) := by
  induction l generalizing s with
  | nil => simp
  | cons b rest ih => simp [ih]

/-- A cell that no byte of the string is written to reads as before. -/
theorem emit_read_other {l : List Byte} {s : State} (hcfg : s.cfg.tx.aw ≤ s.cfg.tx.pw) {a : Nat}
    (ha : ∀ i < l.length, (s.tx.wptr + i) % 2 ^ s.cfg.tx.aw ≠ a) :
    (emit l s).tx.mem.read a = s.tx.mem.read a := by
  induction l generalizing s with
  | nil => rfl
  | cons b rest ih =>
    have hfirst : a ≠ s.tx.wptr % 2 ^ s.cfg.tx.aw := (ha 0 (Nat.succ_pos _)).symm
    have hrest : ∀ i < rest.length,
        ((emitByte b s).tx.wptr + i) % 2 ^ (emitByte b s).cfg.tx.aw ≠ a := fun i hi => by
      rw [emitByte_cell hcfg]
      exact ha (i + 1) (Nat.succ_lt_succ hi)
    rw [emit_cons, ih (by rwa [emitByte_cfg]) hrest, emitByte_read, if_neg hfirst]

/-- Fewer than N further offsets do not come back to the first byte's cell. -/
theorem add_mod_ne_of_lt {p i n : Nat} (hi : i + 1 < n) : (p + (i + 1)) % n ≠ p % n := fun h => by
  have hzero : i + 1 ≡ 0 [MOD n] := Nat.ModEq.add_left_cancel' p h
  exact i.succ_ne_zero (hzero.eq_of_lt_of_lt hi (by omega))

/-- The last N bytes of the string are what the storage holds. -/
theorem emit_read_sent {l : List Byte} {s : State} (hcfg : s.cfg.tx.aw ≤ s.cfg.tx.pw) {i : Nat}
    (hi : i < l.length) (hlast : l.length ≤ i + 2 ^ s.cfg.tx.aw) :
    some ((emit l s).tx.mem.read ((s.tx.wptr + i) % 2 ^ s.cfg.tx.aw)) = l[i]? := by
  induction l generalizing s i with
  | nil => exact absurd hi (Nat.not_lt_zero i)
  | cons b rest ih =>
    rw [List.length_cons] at hi hlast
    cases i with
    | zero =>
      have hkept : ∀ j < rest.length,
          ((emitByte b s).tx.wptr + j) % 2 ^ (emitByte b s).cfg.tx.aw ≠ s.tx.wptr % 2 ^ s.cfg.tx.aw := fun j hj => by
        rw [emitByte_cell hcfg]
        exact add_mod_ne_of_lt (by omega)
      rw [emit_cons, Nat.add_zero, emit_read_other (by rwa [emitByte_cfg]) hkept, emitByte_read, if_pos rfl,
        List.getElem?_cons_zero]
    | succ i =>
      rw [emit_cons, List.getElem?_cons_succ, ← emitByte_cell hcfg b]
      exact ih (by rwa [emitByte_cfg]) (by omega) (by rw [emitByte_cfg]; omega)

/-- Of the TX FIFO, `emit` touches the storage, the write pointer, the sticky flag and the push ghosts. -/
theorem emit_tx_touches (l : List Byte) (s : State) :
    (emit l s).tx = { s.tx with
      mem := (emit l s).tx.mem
      wptr := (emit l s).tx.wptr
      lapErr := (emit l s).tx.lapErr
      ghost := { (emit l s).tx.ghost with rabs := s.tx.ghost.rabs } } :=
  emit_induct
    (P := fun t => t.tx = { s.tx with
      mem := t.tx.mem, wptr := t.tx.wptr, lapErr := t.tx.lapErr, ghost := { t.tx.ghost with rabs := s.tx.ghost.rabs } })
    (fun b t h => by rw [emitByte_tx, Fifo.push_touches, h]) l s rfl

end Sys2Proof.Machine

open Sys2Proof.Machine

/-- Settles O22: one byte of `emit` is an answered TX_SEND, and each clause about a string is an induction on it. -/
theorem emitPushesInOrder : Obligations.EmitPushesInOrder := by
  refine ⟨emit_nil, fun b l s => ⟨emitByte b s, exec_txSend b s, emit_cons b l s⟩, fun l s hcfg => ?_⟩
  have hframe : emit l s = { s with
      tx := { s.tx with
        mem := (emit l s).tx.mem
        wptr := (emit l s).tx.wptr
        lapErr := (emit l s).tx.lapErr
        ghost := { (emit l s).tx.ghost with rabs := s.tx.ghost.rabs } }
      te.txEn := (emit l s).te.txEn
      g.fault := (emit l s).g.fault } := by
    rw [← emit_tx_touches]
    exact emit_touches l s
  exact ⟨emit_wptr l s, emit_wabs l s, emit_txEn l s, fun i => emit_read_sent hcfg, fun a => emit_read_other hcfg,
    hframe⟩

end

section
/-! The crossing's arithmetic (10_state.md R60, R61): residues, how far behind the write pointer a gray copy is, and
what a push, a publication, a shift and a pop do to that distance. -/

namespace Sys2Proof.Machine

/-! ## Residues -/

theorem subMod_lt {m : Nat} (hm : 0 < m) (a b : Nat) : subMod a b m < m := Nat.mod_lt _ hm

/-- `(a - b) mod m` and `b` add up to `a`. -/
theorem subMod_add_modEq {m : Nat} (hm : 0 < m) (a b : Nat) : subMod a b m + b ≡ a [MOD m] := by
  have hsum : a + (m - b % m) + b % m = a + m := by
    have := Nat.mod_lt b hm
    omega
  calc subMod a b m + b
      ≡ a + (m - b % m) + b % m [MOD m] := (Nat.mod_modEq _ m).add (Nat.mod_modEq b m).symm
    _ = a + m := hsum
    _ ≡ a [MOD m] := Nat.add_modEq_right

/-- The difference is the one residue that, added to `b`, gives `a`. -/
theorem subMod_eq_of_add_modEq {m a b x : Nat} (hx : x < m) (h : x + b ≡ a [MOD m]) : subMod a b m = x := by
  have hm : 0 < m := Nat.zero_lt_of_lt hx
  have hcancel : subMod a b m ≡ x [MOD m] :=
    Nat.ModEq.add_right_cancel' b ((subMod_add_modEq hm a b).trans h.symm)
  exact hcancel.eq_of_lt_of_lt (subMod_lt hm a b) hx

theorem modulus_pos (c : FifoCfg) : 0 < c.modulus := Nat.two_pow_pos c.pw

theorem cap_pos (c : FifoCfg) : 0 < c.cap := Nat.two_pow_pos c.aw

theorem cap_dvd_modulus {c : FifoCfg} (hc : LegalFifo c) : c.cap ∣ c.modulus := by
  obtain ⟨-, -, hpw, -⟩ := hc
  exact pow_dvd_pow 2 (Nat.le_of_succ_le hpw)

/-! ## The lag of a copy -/

/-- `Fifo.lag` for a write pointer `w`. -/
def lagOf (c : FifoCfg) (w g : Nat) : Nat := subMod w (bin c.pw g) c.modulus

theorem Fifo.lag_eq_lagOf (c : FifoCfg) (f : Fifo) : f.lag c = lagOf c f.wptr := rfl

theorem Fifo.leadW_eq_lagOf (c : FifoCfg) (f : Fifo) : f.leadW c = lagOf c f.wptr (stagePtr f.rsync) := rfl

theorem lagOf_lt (c : FifoCfg) (w g : Nat) : lagOf c w g < c.modulus := subMod_lt (modulus_pos c) _ _

theorem lagOf_add_bin (c : FifoCfg) (w g : Nat) : lagOf c w g + bin c.pw g ≡ w [MOD c.modulus] :=
  subMod_add_modEq (modulus_pos c) _ _

/-- A push puts every copy one further behind, unless the copy is a whole lap back. -/
theorem lagOf_push {c : FifoCfg} {w g : Nat} (h : lagOf c w g + 1 < c.modulus) :
    lagOf c ((w + 1) % c.modulus) g = lagOf c w g + 1 := by
  refine subMod_eq_of_add_modEq h ?_
  calc lagOf c w g + 1 + bin c.pw g
      = lagOf c w g + bin c.pw g + 1 := Nat.add_right_comm _ _ _
    _ ≡ w + 1 [MOD c.modulus] := (lagOf_add_bin c w g).add_right 1
    _ ≡ (w + 1) % c.modulus [MOD c.modulus] := (Nat.mod_modEq _ _).symm

/-- One gray step forward brings a copy one nearer. -/
theorem lagOf_gray_succ {c : FifoCfg} {w g : Nat} (h : 0 < lagOf c w g) :
    lagOf c w (gray ((bin c.pw g + 1) % c.modulus)) = lagOf c w g - 1 := by
  refine subMod_eq_of_add_modEq ((Nat.sub_le _ _).trans_lt (lagOf_lt c w g)) ?_
  have hbin : bin c.pw (gray ((bin c.pw g + 1) % c.modulus)) = (bin c.pw g + 1) % c.modulus :=
    bin_gray (Nat.mod_lt _ (modulus_pos c))
  rw [hbin]
  calc lagOf c w g - 1 + (bin c.pw g + 1) % c.modulus
      ≡ lagOf c w g - 1 + (bin c.pw g + 1) [MOD c.modulus] := (Nat.mod_modEq _ _).add_left _
    _ = lagOf c w g + bin c.pw g := by omega
    _ ≡ w [MOD c.modulus] := lagOf_add_bin c w g

/-- A copy that lags as far as its own pointer `p` has reached it. -/
theorem bin_eq_of_lagOf_eq {c : FifoCfg} {w g p : Nat} (hg : g < c.modulus) (hp : p < c.modulus)
    (hw : lagOf c w g + p ≡ w [MOD c.modulus]) : bin c.pw g = p :=
  (Nat.ModEq.add_left_cancel' _ ((lagOf_add_bin c w g).trans hw.symm)).eq_of_lt_of_lt (bin_lt hg) hp

/-- Publishing brings a copy nearer to its pointer and never past it: `lo` is how far behind the pointer itself is. -/
theorem lagOf_publish {c : FifoCfg} {w p g lo : Nat} (hg : g < c.modulus) (hp : p < c.modulus)
    (hw : lo + p ≡ w [MOD c.modulus]) (hlo : lo ≤ lagOf c w g) :
    lo ≤ lagOf c w (publish c p g) ∧ lagOf c w (publish c p g) ≤ lagOf c w g := by
  by_cases hdone : bin c.pw g = p
  · rw [publish_of_done hdone]
    exact ⟨hlo, le_rfl⟩
  · have hne : lo ≠ lagOf c w g := fun he => hdone (bin_eq_of_lagOf_eq hg hp (he ▸ hw))
    rw [publish_of_behind hdone, lagOf_gray_succ (by omega)]
    omega

theorem publish_lt {c : FifoCfg} {p g : Nat} (hg : g < c.modulus) : publish c p g < c.modulus := by
  unfold publish
  split
  · exact hg
  · exact gray_lt (Nat.mod_lt _ (modulus_pos c))

/-! ## The copies of one pointer -/

/-- The copies of one pointer, its published one first: gray codes whose lags rise from `lo` to at most `hi`. -/
structure CopiesOk (c : FifoCfg) (w lo hi : Nat) (copies : List Nat) : Prop where
  code : ∀ x ∈ copies, x < c.modulus
  rising : copies.Pairwise (fun x y => lagOf c w x ≤ lagOf c w y)
  low : ∀ x ∈ copies, lo ≤ lagOf c w x
  high : ∀ x ∈ copies, lagOf c w x ≤ hi

/-- The lags, by the pointer a copy is of. -/
theorem Fifo.lags_eq (c : FifoCfg) (f : Fifo) :
    f.lags c = (f.wpub :: f.wsync).map (lagOf c f.wptr)
      ++ (f.ghost.wabs - f.ghost.rabs) :: (f.rpub :: f.rsync).map (lagOf c f.wptr) := rfl

/-- The crossing's invariant, by the pointer: the copies of the write pointer lag at most as the read pointer does,
and those of the read pointer at least so. -/
theorem crossInv_iff {c : FifoCfg} {f : Fifo} :
    CrossInv c f ↔ f.ghost.rabs ≤ f.ghost.wabs
      ∧ CopiesOk c f.wptr 0 (f.ghost.wabs - f.ghost.rabs) (f.wpub :: f.wsync)
      ∧ CopiesOk c f.wptr (f.ghost.wabs - f.ghost.rabs) f.ghost.wabs (f.rpub :: f.rsync) := by
  have hcode : (∀ g ∈ f.wpub :: f.rpub :: (f.wsync ++ f.rsync), g < c.modulus)
      ↔ (∀ g ∈ f.wpub :: f.wsync, g < c.modulus) ∧ ∀ g ∈ f.rpub :: f.rsync, g < c.modulus := by
    simp only [List.forall_mem_cons, List.forall_mem_append]
    tauto
  unfold CrossInv
  rw [Fifo.lags_eq, hcode, List.pairwise_append, List.pairwise_cons, List.pairwise_map, List.pairwise_map]
  simp only [List.forall_mem_map, List.forall_mem_append, List.forall_mem_cons (a := f.ghost.wabs - f.ghost.rabs)]
  constructor
  · rintro ⟨hle, ⟨hcw, hcr⟩, ⟨hrw, ⟨hlr, hrr⟩, hwr⟩, -, -, hhr⟩
    exact ⟨hle, ⟨hcw, hrw, fun _ _ => Nat.zero_le _, fun x hx => (hwr x hx).1⟩, ⟨hcr, hrr, hlr, hhr⟩⟩
  · rintro ⟨hle, ⟨hcw, hrw, -, hhw⟩, ⟨hcr, hrr, hlr, hhr⟩⟩
    exact ⟨hle, ⟨hcw, hcr⟩, ⟨hrw, ⟨hlr, hrr⟩, fun x hx => ⟨hhw x hx, fun y hy => (hhw x hx).trans (hlr y hy)⟩⟩,
      fun x hx => (hhw x hx).trans (Nat.sub_le _ _), Nat.sub_le _ _, hhr⟩

theorem stagePtr_eq_getLast {sync : List Nat} (hs : sync ≠ []) : stagePtr sync = sync.getLast hs := by
  rw [stagePtr, List.getLastD_eq_getLast?, List.getLast?_eq_getLast_of_ne_nil hs, Option.getD_some]

theorem stagePtr_mem {sync : List Nat} (hs : sync ≠ []) : stagePtr sync ∈ sync := by
  rw [stagePtr_eq_getLast hs]
  exact List.getLast_mem hs

namespace CopiesOk
variable {c : FifoCfg} {w lo hi pub : Nat} {sync : List Nat}

/-- Every copy lags at most as the last stage of the synchronizer does. -/
theorem lag_le_last (h : CopiesOk c w lo hi (pub :: sync)) (hs : sync ≠ []) {x : Nat} (hx : x ∈ pub :: sync) :
    lagOf c w x ≤ lagOf c w (stagePtr sync) := by
  rw [stagePtr_eq_getLast hs, ← List.getLast_cons (a := pub) hs]
  exact h.rising.rel_getLast hx

/-- A synchronizer's shift drops its last stage and doubles the published copy. -/
theorem shift (h : CopiesOk c w lo hi (pub :: sync)) : CopiesOk c w lo hi (pub :: syncShift pub sync) := by
  have hmem : ∀ x ∈ pub :: syncShift pub sync, x ∈ pub :: sync := fun x hx => by
    rcases List.mem_cons.1 hx with rfl | hx
    · exact List.mem_cons_self
    · exact List.mem_cons.2 (mem_syncShift hx)
  refine ⟨fun x hx => h.code x (hmem x hx), List.pairwise_cons.2 ⟨fun x hx => ?_, ?_⟩,
    fun x hx => h.low x (hmem x hx), fun x hx => h.high x (hmem x hx)⟩
  · rcases mem_syncShift hx with rfl | hx
    · exact le_rfl
    · exact List.rel_of_pairwise_cons h.rising hx
  · exact h.rising.sublist (List.dropLast_sublist _)

/-- Publishing moves the published copy towards its pointer `p`, which itself lags by `lo`. -/
theorem publish {p : Nat} (h : CopiesOk c w lo hi (pub :: sync)) (hp : p < c.modulus)
    (hw : lo + p ≡ w [MOD c.modulus]) : CopiesOk c w lo hi (Machine.publish c p pub :: sync) := by
  obtain ⟨hcode, hrising, hlow, hhigh⟩ := h
  rw [List.forall_mem_cons] at hcode hlow hhigh
  obtain ⟨hfirst, hrest⟩ := List.pairwise_cons.1 hrising
  obtain ⟨hlo, hle⟩ := lagOf_publish hcode.1 hp hw hlow.1
  exact ⟨List.forall_mem_cons.2 ⟨publish_lt hcode.1, hcode.2⟩,
    List.pairwise_cons.2 ⟨fun x hx => hle.trans (hfirst x hx), hrest⟩,
    List.forall_mem_cons.2 ⟨hlo, hlow.2⟩, List.forall_mem_cons.2 ⟨hle.trans hhigh.1, hhigh.2⟩⟩

/-- A push puts every copy one further behind while none is a whole lap back. -/
theorem push {copies : List Nat} (h : CopiesOk c w lo hi copies) (hlap : ∀ x ∈ copies, lagOf c w x + 1 < c.modulus) :
    CopiesOk c ((w + 1) % c.modulus) (lo + 1) (hi + 1) copies := by
  have hlag : ∀ x ∈ copies, lagOf c ((w + 1) % c.modulus) x = lagOf c w x + 1 := fun x hx => lagOf_push (hlap x hx)
  refine ⟨h.code, h.rising.imp_of_mem fun hx hy hxy => ?_, fun x hx => ?_, fun x hx => ?_⟩
  · rw [hlag _ hx, hlag _ hy]
    exact Nat.succ_le_succ hxy
  · rw [hlag x hx]
    exact Nat.succ_le_succ (h.low x hx)
  · rw [hlag x hx]
    exact Nat.succ_le_succ (h.high x hx)

/-- The bounds may be widened. -/
theorem mono {copies : List Nat} {lo' hi' : Nat} (h : CopiesOk c w lo hi copies) (hlo : lo' ≤ lo) (hhi : hi ≤ hi') :
    CopiesOk c w lo' hi' copies :=
  ⟨h.code, h.rising, fun x hx => hlo.trans (h.low x hx), fun x hx => (h.high x hx).trans hhi⟩

end CopiesOk

end Sys2Proof.Machine
end

section
/-! The invariant of one FIFO (10_state.md R61), and that a push, a pop and the phases of either side keep it. -/

namespace Sys2Proof.Machine

/-! ## A FIFO and the recorded fault -/

/-- What `Inv` asks of one FIFO, given the recorded fault. -/
structure FifoOk (c : FifoCfg) (depth : Nat) (fault : Option Fault) (f : Fifo) : Prop where
  inv : FifoInv c depth f
  cross : fault = none → CrossInv c f
  lap : f.lapErr = true → fault ≠ none

/-- `Inv`, by the FIFO. -/
theorem inv_iff {s : State} :
    Inv s ↔ LegalConfig s.cfg ∧ FifoOk s.cfg.rx s.cfg.depth s.g.fault s.rx
      ∧ FifoOk s.cfg.tx s.cfg.depth s.g.fault s.tx ∧ EngineInv s ∧ LeInv s.cfg s.le ∧ DpInv s.cfg s.dp := by
  constructor
  · rintro ⟨hcfg, hrx, htx, hcross, ⟨hlapr, hlapt⟩, heng, hle, hdp⟩
    exact ⟨hcfg, ⟨hrx, fun hf => (hcross hf).1, hlapr⟩, ⟨htx, fun hf => (hcross hf).2, hlapt⟩, heng, hle, hdp⟩
  · rintro ⟨hcfg, ⟨hrx, hcr, hlapr⟩, ⟨htx, hct, hlapt⟩, heng, hle, hdp⟩
    exact ⟨hcfg, hrx, htx, fun hf => ⟨hcr hf, hct hf⟩, ⟨hlapr, hlapt⟩, heng, hle, hdp⟩

section
variable {c : FifoCfg} {depth : Nat} {fault : Option Fault} {f : Fifo}

theorem raised_ne_none (fault : Option Fault) (x : Fault) : fault.or (some x) ≠ none := by simp

/-- Recording a fault asks nothing new of a FIFO. -/
theorem FifoOk.weaken {fault' : Option Fault} (h : FifoOk c depth fault f) (hf : fault' = none → fault = none) :
    FifoOk c depth fault' f :=
  ⟨h.inv, fun hn => h.cross (hf hn), fun hl hn => h.lap hl (hf hn)⟩

theorem FifoInv.wptr_eq (h : FifoInv c depth f) : f.wptr = f.ghost.wabs % c.modulus := h.2.1

theorem FifoInv.rptr_eq (h : FifoInv c depth f) : f.rptr = f.ghost.rabs % c.modulus := h.2.2.1

theorem FifoInv.rsync_length (h : FifoInv c depth f) : f.rsync.length = depth := h.2.2.2.1

theorem FifoInv.wsync_length (h : FifoInv c depth f) : f.wsync.length = depth := h.2.2.2.2.1

theorem FifoInv.wptr_lt (h : FifoInv c depth f) : f.wptr < c.modulus := h.wptr_eq ▸ Nat.mod_lt _ (modulus_pos c)

theorem FifoInv.rptr_lt (h : FifoInv c depth f) : f.rptr < c.modulus := h.rptr_eq ▸ Nat.mod_lt _ (modulus_pos c)

/-! ## Push -/

/-- The cell of push `k` under the wrapped write pointer is that of the unwrapped one, because N divides 2^PW. -/
theorem mod_modulus_mod_cap (hc : LegalFifo c) (k : Nat) : k % c.modulus % c.cap = k % c.cap :=
  Nat.mod_mod_of_dvd k (cap_dvd_modulus hc)

/-- Two pushes less than N apart go to different cells. -/
theorem mod_cap_ne {m k w : Nat} (hlt : k < w) (hnear : w < k + m) : k % m ≠ w % m := fun he => by
  have hdvd : m ∣ w - k := (Nat.modEq_iff_dvd' hlt.le).1 he
  have := Nat.le_of_dvd (by omega) hdvd
  omega

theorem FifoInv.push (hc : LegalFifo c) (b : Byte) (h : FifoInv c depth f) : FifoInv c depth (f.push c b) := by
  obtain ⟨hmem, hw, hr, hrs, hws, hrise, hcells, htag⟩ := h
  have hcell : f.wptr % c.cap = f.ghost.wabs % c.cap := by rw [hw, mod_modulus_mod_cap hc]
  have hlt : f.wptr % c.cap < c.cap := Nat.mod_lt _ (cap_pos c)
  rw [Fifo.push_touches]
  refine ⟨Memory.write_keeps_ok b hlt hmem, ?_, hr, hrs, hws, insertKey_keeps_rising _ _ hrise, fun x hx => ?_,
    fun k hk hnear => ?_⟩
  · simp only [hw, Nat.mod_add_mod]
  · rcases mem_insertKey hx with rfl | hx
    · exact hlt
    · exact hcells x hx
  · simp only [List.mem_range] at hk hnear htag ⊢
    rw [lookupKey_insertKey, hcell]
    rcases Nat.lt_succ_iff_lt_or_eq.1 hk with hold | rfl
    · rw [if_neg (mod_cap_ne hold (by omega)), htag k hold (by omega)]
    · rw [if_pos rfl]

/-- A push that is no lap keeps the crossing: the write side's view bounds every copy's lag. -/
theorem CrossInv.push (b : Byte) (hs : f.rsync ≠ []) (hlap : f.laps c = false) (h : CrossInv c f) :
    CrossInv c (f.push c b) := by
  obtain ⟨hle, hw, hr⟩ := crossInv_iff.1 h
  have hlead : lagOf c f.wptr (stagePtr f.rsync) + 1 < c.modulus := by
    have hne : lagOf c f.wptr (stagePtr f.rsync) ≠ c.modulus - 1 := by
      simpa [Fifo.laps, Fifo.leadW_eq_lagOf] using hlap
    have := lagOf_lt c f.wptr (stagePtr f.rsync)
    omega
  have hread : ∀ x ∈ f.rpub :: f.rsync, lagOf c f.wptr x + 1 < c.modulus := fun x hx =>
    (Nat.succ_le_succ (hr.lag_le_last hs hx)).trans_lt hlead
  have hwrite : ∀ x ∈ f.wpub :: f.wsync, lagOf c f.wptr x + 1 < c.modulus := fun x hx =>
    (Nat.succ_le_succ ((hw.high x hx).trans (hr.low _ List.mem_cons_self))).trans_lt
      (hread _ List.mem_cons_self)
  have hsub : f.ghost.wabs - f.ghost.rabs + 1 = f.ghost.wabs + 1 - f.ghost.rabs := by omega
  rw [crossInv_iff, Fifo.push_touches]
  exact ⟨by simp only; omega, hsub ▸ (hw.push hwrite).mono (Nat.zero_le _) le_rfl, hsub ▸ hr.push hread⟩

/-- A push keeps the FIFO's invariant; a lap is recorded as a fault. -/
theorem FifoOk.push (hc : LegalFifo c) (hd : 0 < depth) (b : Byte) (h : FifoOk c depth fault f) :
    FifoOk c depth (if f.laps c then fault.or (some .lapOverrun) else fault) (f.push c b) := by
  have hs : f.rsync ≠ [] := List.ne_nil_of_length_pos (by rwa [h.inv.rsync_length])
  cases hlap : f.laps c with
  | true =>
    exact ⟨h.inv.push hc b, fun hf => absurd hf (raised_ne_none fault _), fun _ => raised_ne_none fault _⟩
  | false =>
    refine ⟨h.inv.push hc b, fun hf => (h.cross hf).push b hs hlap, fun hl => h.lap ?_⟩
    simpa [Fifo.push_touches, hlap] using hl

/-! ## Pop -/

/-- The read pointer passes `n` bytes. -/
def Fifo.readOn (c : FifoCfg) (n : Nat) (f : Fifo) : Fifo :=
  { f with
    rptr := (f.ghost.rabs + n) % c.modulus
    ghost := { f.ghost with rabs := f.ghost.rabs + n } }

/-- The view of the read side, in counts: the lead and the read pointer add up to the synchronized write pointer. -/
theorem leadR_add_rptr (c : FifoCfg) (f : Fifo) :
    f.leadR c + f.rptr ≡ bin c.pw (stagePtr f.wsync) [MOD c.modulus] :=
  subMod_add_modEq (modulus_pos c) _ _

/-- A pop moves the read pointer on, and not past the view of the write pointer. -/
theorem pop_eq_readOn (draw : Byte) (hr : f.rptr = f.ghost.rabs % c.modulus) :
    ∃ n ≤ f.leadR c, (f.pop c draw).fifo = f.readOn c n := by
  rcases f.pop_result c draw with ⟨hzero, hpop⟩ | ⟨hne, v, -, hfifo, -⟩
  · refine ⟨0, Nat.zero_le _, ?_⟩
    rw [hpop, Fifo.readOn, Nat.add_zero, ← hr]
  by_cases hfit : f.leadR c ≤ c.cap
  · refine ⟨1, Nat.one_le_iff_ne_zero.2 hne, ?_⟩
    rw [hfifo, Fifo.discard_of_fit hfit, Fifo.advance, Fifo.readOn, hr, Nat.mod_add_mod]
  · have hexcess : c.cap < f.leadR c := Nat.not_le.1 hfit
    have hcap := cap_pos c
    refine ⟨f.leadR c - c.cap + 1, by omega, ?_⟩
    have hjump : subMod (bin c.pw (stagePtr f.wsync)) c.cap c.modulus
        = (f.ghost.rabs + (f.leadR c - c.cap)) % c.modulus := by
      refine subMod_eq_of_add_modEq (Nat.mod_lt _ (modulus_pos c)) ?_
      calc (f.ghost.rabs + (f.leadR c - c.cap)) % c.modulus + c.cap
          ≡ f.ghost.rabs + (f.leadR c - c.cap) + c.cap [MOD c.modulus] := (Nat.mod_modEq _ _).add_right _
        _ = f.leadR c + f.ghost.rabs := by omega
        _ ≡ f.leadR c + f.rptr [MOD c.modulus] := hr ▸ (Nat.mod_modEq _ _).symm.add_left _
        _ ≡ bin c.pw (stagePtr f.wsync) [MOD c.modulus] := leadR_add_rptr c f
    rw [hfifo, Fifo.discard_of_excess hexcess, Fifo.advance, Fifo.readOn, hjump, Nat.mod_add_mod, Nat.add_assoc]

theorem FifoInv.readOn (n : Nat) (h : FifoInv c depth f) : FifoInv c depth (f.readOn c n) := by
  obtain ⟨hmem, hw, -, hrest⟩ := h
  exact ⟨hmem, hw, rfl, hrest⟩

/-- Without a fault the read pointer stands as far behind the write pointer as the counters do. -/
theorem CrossInv.lead_add_rptr (hi : FifoInv c depth f) (h : CrossInv c f) :
    f.ghost.wabs - f.ghost.rabs + f.rptr ≡ f.wptr [MOD c.modulus] := by
  have hw := hi.wptr_eq
  have hr := hi.rptr_eq
  calc f.ghost.wabs - f.ghost.rabs + f.rptr
      ≡ f.ghost.wabs - f.ghost.rabs + f.ghost.rabs [MOD c.modulus] := hr ▸ (Nat.mod_modEq _ _).add_left _
    _ = f.ghost.wabs := Nat.sub_add_cancel h.1
    _ ≡ f.wptr [MOD c.modulus] := hw ▸ (Nat.mod_modEq _ _).symm

/-- Without a fault the read side's lead is the true lead less the lag of its view. -/
theorem leadR_eq (hi : FifoInv c depth f) (hs : f.wsync ≠ []) (h : CrossInv c f) :
    f.leadR c = f.ghost.wabs - f.ghost.rabs - lagOf c f.wptr (stagePtr f.wsync) := by
  obtain ⟨-, hw, hr⟩ := crossInv_iff.1 h
  have hview : lagOf c f.wptr (stagePtr f.wsync) ≤ f.ghost.wabs - f.ghost.rabs :=
    hw.high _ (List.mem_cons_of_mem _ (stagePtr_mem hs))
  have hlead : f.ghost.wabs - f.ghost.rabs < c.modulus :=
    (hr.low _ List.mem_cons_self).trans_lt (lagOf_lt c f.wptr f.rpub)
  refine subMod_eq_of_add_modEq ((Nat.sub_le _ _).trans_lt hlead) ?_
  refine Nat.ModEq.add_left_cancel' (lagOf c f.wptr (stagePtr f.wsync)) ?_
  calc lagOf c f.wptr (stagePtr f.wsync)
          + (f.ghost.wabs - f.ghost.rabs - lagOf c f.wptr (stagePtr f.wsync) + f.rptr)
      = f.ghost.wabs - f.ghost.rabs + f.rptr := by omega
    _ ≡ f.wptr [MOD c.modulus] := h.lead_add_rptr hi
    _ ≡ lagOf c f.wptr (stagePtr f.wsync) + bin c.pw (stagePtr f.wsync) [MOD c.modulus] :=
        (lagOf_add_bin c _ _).symm

/-- Reading at most what the read side sees leaves every copy of the write pointer ahead of the read pointer. -/
theorem CrossInv.readOn {n : Nat} (hi : FifoInv c depth f) (hs : f.wsync ≠ []) (hn : n ≤ f.leadR c)
    (h : CrossInv c f) : CrossInv c (f.readOn c n) := by
  rw [leadR_eq hi hs h] at hn
  obtain ⟨hle, hw, hr⟩ := crossInv_iff.1 h
  have hview : lagOf c f.wptr (stagePtr f.wsync) ≤ f.ghost.wabs - f.ghost.rabs :=
    hw.high _ (List.mem_cons_of_mem _ (stagePtr_mem hs))
  rw [crossInv_iff, Fifo.readOn]
  refine ⟨by simp only; omega, ⟨hw.code, hw.rising, hw.low, fun x hx => ?_⟩, hr.mono (by simp only; omega) le_rfl⟩
  have := hw.lag_le_last hs hx
  simp only
  omega

theorem FifoOk.pop (hd : 0 < depth) (draw : Byte) (h : FifoOk c depth fault f) :
    FifoOk c depth fault (f.pop c draw).fifo := by
  have hs : f.wsync ≠ [] := List.ne_nil_of_length_pos (by rwa [h.inv.wsync_length])
  obtain ⟨n, hn, hpop⟩ := pop_eq_readOn draw h.inv.rptr_eq
  rw [hpop]
  exact ⟨h.inv.readOn n, fun hf => (h.cross hf).readOn h.inv hs hn, h.lap⟩

/-! ## Phases -/

/-- The write side's phases: its view of the read pointer shifts, and it publishes the write pointer. -/
theorem FifoOk.writePhases (h : FifoOk c depth fault f) :
    FifoOk c depth fault { f with rsync := syncShift f.rpub f.rsync, wpub := publish c f.wptr f.wpub } := by
  refine ⟨?_, fun hf => ?_, h.lap⟩
  · obtain ⟨hmem, hw, hr, hrs, hrest⟩ := h.inv
    exact ⟨hmem, hw, hr, (syncShift_length _ _).trans hrs, hrest⟩
  · obtain ⟨hle, hw, hr⟩ := crossInv_iff.1 (h.cross hf)
    exact crossInv_iff.2 ⟨hle, hw.publish h.inv.wptr_lt (by rw [Nat.zero_add]), hr.shift⟩

/-- The read side's phases: its view of the write pointer shifts, and it publishes the read pointer. -/
theorem FifoOk.readPhases (h : FifoOk c depth fault f) :
    FifoOk c depth fault { f with wsync := syncShift f.wpub f.wsync, rpub := publish c f.rptr f.rpub } := by
  refine ⟨?_, fun hf => ?_, h.lap⟩
  · obtain ⟨hmem, hw, hr, hrs, hws, hrest⟩ := h.inv
    exact ⟨hmem, hw, hr, hrs, (syncShift_length _ _).trans hws, hrest⟩
  · obtain ⟨hle, hw, hr⟩ := crossInv_iff.1 (h.cross hf)
    exact crossInv_iff.2 ⟨hle, hw.shift, hr.publish h.inv.rptr_lt ((h.cross hf).lead_add_rptr h.inv)⟩

/-! ## The source's count (10_state.md R41) -/

/-- The write pointer's cell is the one after the counted bytes, so head less tail gives the count back, mod N. -/
theorem head_sub_tail (hc : LegalFifo c) (hi : FifoInv c depth f) (hroom : f.absCount c < c.cap) :
    subMod (f.absHead c) (f.absTail c) c.cap = f.absCount c := by
  have hle : f.absCount c ≤ f.ghost.wabs := (Nat.min_le_right _ _).trans (Nat.sub_le _ _)
  refine subMod_eq_of_add_modEq hroom ?_
  calc f.absCount c + f.absTail c
      ≡ f.absCount c + (f.ghost.wabs - f.absCount c) [MOD c.cap] := (Nat.mod_modEq _ _).add_left _
    _ = f.ghost.wabs := Nat.add_sub_cancel' hle
    _ ≡ f.ghost.wabs % c.cap [MOD c.cap] := (Nat.mod_modEq _ _).symm
    _ = f.absHead c := by rw [Fifo.absHead, hi.wptr_eq, mod_modulus_mod_cap hc]

theorem absCount_formula (hc : LegalFifo c) (hi : FifoInv c depth f) :
    f.absCount c = if f.absFull c then 2 ^ c.aw else subMod (f.absHead c) (f.absTail c) (2 ^ c.aw) := by
  change f.absCount c = if f.absFull c then c.cap else subMod (f.absHead c) (f.absTail c) c.cap
  simp only [Fifo.absFull, beq_iff_eq]
  split
  case isTrue hfull => exact hfull
  case isFalse hne => exact (head_sub_tail hc hi (Nat.lt_of_le_of_ne (Nat.min_le_left _ _) hne)).symm

theorem contents_length (c : FifoCfg) (f : Fifo) : (f.contents c).length = f.absCount c := by
  rw [Fifo.contents, List.length_map, List.length_range]

end

end Sys2Proof.Machine

open Sys2Proof.Machine

/-- Settles O28: the write pointer is the push count mod 2^PW and N divides 2^PW, so head and tail differ by the
count, mod N. -/
theorem sourceCountFormulaHolds : Obligations.SourceCountFormulaHolds := by
  intro s c f hinv hmem
  obtain ⟨⟨hlegalrx, hlegaltx, -⟩, hrx, htx, -⟩ := hinv
  simp only [List.mem_cons, Prod.mk.injEq, List.not_mem_nil, or_false] at hmem
  rcases hmem with ⟨rfl, rfl⟩ | ⟨rfl, rfl⟩
  · exact ⟨absCount_formula hlegalrx hrx, contents_length _ _⟩
  · exact ⟨absCount_formula hlegaltx htx, contents_length _ _⟩

end

section
/-! The bounds of the line editor and of the dispatcher (10_state.md R46 to R51, R61): which updates keep them. -/

namespace Sys2Proof.Machine

theorem storageOk_nil (n : Nat) : StorageOk n [] := ⟨⟨List.Pairwise.nil, by simp⟩, by simp⟩

/-- What holds of every entry and of the default holds of an indexed read. -/
theorem getD_of_forall {α : Type} {P : α → Prop} {l : List α} {d : α} (h : ∀ x ∈ l, P x) (hd : P d) (j : Nat) :
    P (l.getD j d) := by
  rcases Nat.lt_or_ge j l.length with hj | hj
  · rw [List.getD_eq_getElem _ _ hj]
    exact h _ (List.getElem_mem hj)
  · rwa [List.getD_eq_default _ _ hj]

/-! ## The line editor -/

section
variable {c : Config} {le : LineEditor}

/-- A new line, length and cursor within the line's bounds. -/
theorem LeInv.edit {buf : Memory} {len cur : Nat} (h : LeInv c le) (hbuf : StorageOk c.lineCap buf) (hcur : cur ≤ len)
    (hlen : len ≤ c.lineCap) : LeInv c { le with buf := buf, len := len, cur := cur } := by
  obtain ⟨-, -, -, hrest⟩ := h
  exact ⟨hbuf, hcur, hlen, hrest⟩

theorem LeInv.browse {d : Nat} (h : LeInv c le) (hd : d ≤ le.hcount) : LeInv c { le with hdepth := d } := by
  obtain ⟨hbuf, hcur, hlen, hhist, hok, hhlen, hbound, hhw, hcount, -, hesc⟩ := h
  exact ⟨hbuf, hcur, hlen, hhist, hok, hhlen, hbound, hhw, hcount, hd, hesc⟩

theorem LeInv.escape {e : BitVec 2} (h : LeInv c le) (he : e ≠ 3) : LeInv c { le with esc := e } := by
  obtain ⟨hbuf, hcur, hlen, hhist, hok, hhlen, hbound, hhw, hcount, hdepth, -⟩ := h
  exact ⟨hbuf, hcur, hlen, hhist, hok, hhlen, hbound, hhw, hcount, hdepth, he⟩

/-- A line stored at the write index, as HIST_COMMIT does (42_line_editor.md R275). -/
theorem LeInv.commit {m : Memory} {n : Nat} (h : LeInv c le) (hm : StorageOk c.lineCap m) (hn : n ≤ c.lineCap) :
    LeInv c { le with
      hist := le.hist.set le.hw m
      hlen := le.hlen.set le.hw n
      hw := (le.hw + 1) % c.hist
      hcount := min (le.hcount + 1) c.hist } := by
  obtain ⟨hbuf, hcur, hlen, hhist, hok, hhlen, hbound, hhw, hcount, hdepth, hesc⟩ := h
  refine ⟨hbuf, hcur, hlen, List.length_set.trans hhist, fun x hx => ?_, List.length_set.trans hhlen, fun x hx => ?_,
    Nat.mod_lt _ (Nat.zero_lt_of_lt hhw), Nat.min_le_right _ _, by simp only; omega, hesc⟩
  · rcases List.mem_or_eq_of_mem_set hx with hx | rfl
    · exact hok x hx
    · exact hm
  · rcases List.mem_or_eq_of_mem_set hx with hx | rfl
    · exact hbound x hx
    · exact hn

theorem LeInv.line_bounds (h : LeInv c le) : StorageOk c.lineCap le.buf ∧ le.cur ≤ le.len ∧ le.len ≤ c.lineCap :=
  ⟨h.1, h.2.1, h.2.2.1⟩

theorem LeInv.hdepth_le (h : LeInv c le) : le.hdepth ≤ le.hcount := by
  obtain ⟨-, -, -, -, -, -, -, -, -, hdepth, -⟩ := h
  exact hdepth

theorem LeInv.hlen_le (h : LeInv c le) (j : Nat) : le.hlen.getD j 0 ≤ c.lineCap := by
  obtain ⟨-, -, -, -, -, -, hbound, -⟩ := h
  exact getD_of_forall hbound (Nat.zero_le _) j

theorem LeInv.hist_ok (h : LeInv c le) (j : Nat) : StorageOk c.lineCap (le.hist.getD j []) := by
  obtain ⟨-, -, -, -, hok, -⟩ := h
  exact getD_of_forall (P := StorageOk c.lineCap) hok (storageOk_nil _) j

end

/-! ## The dispatcher -/

section
variable {c : Config} {dp : Dispatcher}

theorem DpInv.line {m : Memory} {n : Nat} (h : DpInv c dp) (hm : StorageOk c.lineCap m) (hn : n ≤ c.lineCap) :
    DpInv c { dp with dline := m, dlen := n } := by
  obtain ⟨-, -, hrest⟩ := h
  exact ⟨hm, hn, hrest⟩

theorem DpInv.line_bounds (h : DpInv c dp) : StorageOk c.lineCap dp.dline ∧ dp.dlen ≤ c.lineCap := ⟨h.1, h.2.1⟩

/-- A hand-off of a table entry needs a token. -/
theorem DpInv.handOff {i : Nat} (fromLe : Bool) (h : DpInv c dp) (hi : i < c.cmdTable.length) (ht : 1 ≤ dp.argc) :
    DpInv c { dp with pending := true, cmdIndex := i, fromLe := fromLe } := by
  obtain ⟨hline, hlen, hargc, hstart, htlen, htok, -, -⟩ := h
  exact ⟨hline, hlen, hargc, hstart, htlen, htok, hi, fun _ => ht⟩

theorem DpInv.release (h : DpInv c dp) : DpInv c { dp with pending := false } := by
  obtain ⟨hline, hlen, hargc, hstart, htlen, htok, hi, -⟩ := h
  exact ⟨hline, hlen, hargc, hstart, htlen, htok, hi, fun hp => absurd hp Bool.false_ne_true⟩

theorem overlay_length {new old : List Nat} (h : new.length ≤ old.length) :
    (overlay new old).length = old.length := by
  rw [overlay, List.length_append, List.length_drop, Nat.add_sub_cancel' h]

theorem overlay_getD {new : List Nat} {k : Nat} (old : List Nat) (h : k < new.length) :
    (overlay new old).getD k 0 = new[k] := by
  rw [overlay, List.getD_append _ _ _ _ h, List.getD_eq_getElem _ _ h]

/-- New tokens within the line, while nothing is pending. -/
theorem DpInv.tokens {ts : List (Nat × Nat)} (h : DpInv c dp) (hp : dp.pending = false) (hmax : ts.length ≤ c.maxTok)
    (hts : ∀ p ∈ ts, p.1 + p.2 ≤ c.lineCap) :
    DpInv c { dp with
      argc := ts.length
      tokStart := overlay (ts.map Prod.fst) dp.tokStart
      tokLen := overlay (ts.map Prod.snd) dp.tokLen } := by
  obtain ⟨hline, hlen, -, hstart, htlen, -, hi, -⟩ := h
  refine ⟨hline, hlen, hmax, ?_, ?_, fun k hk => ?_, hi, fun hpend => absurd (hp.symm.trans hpend) Bool.false_ne_true⟩
  · rw [overlay_length (by rwa [List.length_map, hstart]), hstart]
  · rw [overlay_length (by rwa [List.length_map, htlen]), htlen]
  · have hk : k < ts.length := List.mem_range.1 hk
    simp only
    rw [overlay_getD _ (by rwa [List.length_map]), overlay_getD _ (by rwa [List.length_map]), List.getElem_map,
      List.getElem_map]
    exact hts _ (List.getElem_mem hk)

end

/-- The scan's tokens end within the line; `i` is how many bytes the scan has passed. -/
theorem scanTokens_end_le (l : List Byte) (i : Nat) (start : Option Nat) (hstart : ∀ st, start = some st → st ≤ i) :
    ∀ p ∈ scanTokens l i start, p.1 + p.2 ≤ i + l.length := by
  have hclose : ∀ st, start = some st → st + (i - st) = i := fun st hst => Nat.add_sub_cancel' (hstart st hst)
  induction l generalizing i start with
  | nil =>
    cases start with
    | none => simp [scanTokens]
    | some st => simp [scanTokens, hclose st rfl]
  | cons b rest ih =>
    have hopen : ∀ p ∈ scanTokens rest (i + 1) none, p.1 + p.2 ≤ i + (b :: rest).length := fun p hp => by
      have := ih (i + 1) none (by simp) (by simp) p hp
      rw [List.length_cons]
      omega
    have hrun : ∀ st ≤ i, ∀ p ∈ scanTokens rest (i + 1) (some st), p.1 + p.2 ≤ i + (b :: rest).length :=
      fun st hst p hp => by
        have hle : ∀ st', some st = some st' → st' ≤ i + 1 := fun st' he => by cases he; omega
        have := ih (i + 1) (some st) hle (fun st' he => Nat.add_sub_cancel' (hle st' he)) p hp
        rw [List.length_cons]
        omega
    cases start with
    | none =>
      rw [scanTokens]
      split
      · exact hopen
      · exact hrun i le_rfl
    | some st =>
      rw [scanTokens]
      split
      · exact List.forall_mem_cons.2 ⟨by simp [hclose st rfl], hopen⟩
      · exact hrun st (hstart st rfl)

theorem keptTokens_length_le (s : State) : (keptTokens s).length ≤ s.cfg.maxTok := List.length_take_le _ _

theorem keptTokens_end_le (s : State) : ∀ p ∈ keptTokens s, p.1 + p.2 ≤ s.dp.dlen := fun p hp => by
  have := scanTokens_end_le (dispatchLine s) 0 none (by simp) p (List.mem_of_mem_take hp)
  rwa [dispatchLine, Memory.slice_length, Nat.zero_add] at this

end Sys2Proof.Machine
end

section
/-! What a Core request does before it answers, said once for every row (41_transport.md to 43_dispatch.md), and what
EXECUTE, COMPLETE and the editor's byte step can leave behind. -/

namespace Sys2Proof.Machine

/-! ## Requests -/

/-- What the request `i` does to the state before it answers. -/
inductive RequestEffect (s : State) : Instr → State → Prop where
  /-- Reads and refusals. -/
  | unchanged (i : Instr) : RequestEffect s i s
  /-- RX_POP. -/
  | popped {byte : Option Byte} {u : State} (hpop : popRx s = (byte, u)) : RequestEffect s .rxPop u
  /-- TX_SEND. -/
  | sent (d : Byte) : RequestEffect s (.txSend d) (emitByte d s)
  /-- LE_FEED. -/
  | fed (d : Byte) (hp : s.dp.pending = false) : RequestEffect s (.leFeed d) (leStep d s).2
  /-- POLL on an empty view. -/
  | polledNone {u : State} (hp : s.dp.pending = false) (hpop : popRx s = (none, u)) : RequestEffect s .poll u
  /-- POLL with a byte in view. -/
  | polled {v : Byte} {u : State} (hp : s.dp.pending = false) (hpop : popRx s = (some v, u)) :
      RequestEffect s .poll (leStep v u).2
  /-- LINE_WR.CLR. -/
  | lineCleared (hp : s.dp.pending = false) : RequestEffect s .lineWrClr { s with dp.dlen := 0 }
  /-- LINE_WR.PUT. -/
  | lineExtended (a d : Byte) (hp : s.dp.pending = false) (hroom : s.dp.dlen ≠ s.cfg.lineCap) :
      RequestEffect s (.lineWrPut a d)
        { s with dp.dline := s.dp.dline.write s.dp.dlen d, dp.dlen := s.dp.dlen + 1 }
  /-- EXEC. -/
  | executed (hp : s.dp.pending = false) : RequestEffect s .execLine (execute false s).2
  /-- TAB. -/
  | completed (hp : s.dp.pending = false) : RequestEffect s .tab (complete s).2
  /-- CMD_DONE. -/
  | finished (hp : s.dp.pending = true) : RequestEffect s .cmdDone (finishCommand s)
  /-- RECONF with a valid rate code, whichever way the physical layer's init went. -/
  | reinitialized (d rate : Byte) (hd : d ∉ s.cfg.baudRefused) (hrate : rate = d ∨ rate = s.baud) :
      RequestEffect s (.reconf d) { quiesce s with draws := s.draws + 1, baud := rate }

/-- The state after the request `i` is that of its effect, answered. -/
def Answered (i : Instr) (s : State) : Prop :=
  ∃ st p u, RequestEffect s i u ∧ exec i s = .next (respond st p u)

theorem Answered.of_effect {i : Instr} {s u : State} (st : Status) (p : BitVec 28) (hu : RequestEffect s i u)
    (h : exec i s = .next (respond st p u)) : Answered i s := ⟨st, p, u, hu, h⟩

/-- A request that only reads, or is refused. -/
theorem Answered.of_unchanged {i : Instr} {s : State} (st : Status) (p : BitVec 28)
    (h : exec i s = .next (respond st p s)) : Answered i s := .of_effect st p (.unchanged i) h

/-- A request with two outcomes. -/
theorem Answered.of_ite {i : Instr} {s u u' : State} {st st' : Status} {p p' : BitVec 28} {q : Prop} [Decidable q]
    (h : exec i s = if q then .next (respond st p u) else .next (respond st' p' u'))
    (hu : q → RequestEffect s i u) (hu' : ¬ q → RequestEffect s i u') : Answered i s := by
  by_cases hq : q
  · exact .of_effect st p (hu hq) (h.trans (if_pos hq))
  · exact .of_effect st' p' (hu' hq) (h.trans (if_neg hq))

/-- A request that answers BUSY while a command is pending. -/
theorem Answered.unless_busy {i : Instr} {s u : State} {st : Status} {p : BitVec 28}
    (h : exec i s = if s.dp.pending then .next (respond .busy 0 s) else .next (respond st p u))
    (hu : s.dp.pending = false → RequestEffect s i u) : Answered i s :=
  .of_ite h (fun _ => .unchanged i) fun hp => hu (Bool.eq_false_of_not_eq_true hp)

variable (s : State)

theorem answered_rxPop : Answered .rxPop s := by
  rcases hpop : popRx s with ⟨_ | v, u⟩
  · exact .of_effect .empty 0 (.popped hpop) (by simp only [exec, execRxPop, hpop])
  · exact .of_effect .ok (zext28 v) (.popped hpop) (by simp only [exec, execRxPop, hpop])

theorem answered_poll : Answered .poll s := by
  cases hp : s.dp.pending with
  | true => exact .of_unchanged .busy 0 (if_pos hp)
  | false =>
    rcases hpop : popRx s with ⟨_ | v, u⟩
    · exact .of_effect .empty 0 (.polledNone hp hpop) (by simp [exec, execPoll, hp, hpop])
    · exact .of_effect .ok (payloadAct (leStep v u).1 (leStep v u).2.le.esc v) (.polled hp hpop)
        (by simp [exec, execPoll, hp, hpop])

theorem answered_lineWrPut (a d : Byte) : Answered (.lineWrPut a d) s := by
  by_cases ha : 2 ≤ a.toNat
  · exact .of_unchanged _ _ (if_pos ha)
  by_cases hp : s.dp.pending = true
  · exact .of_unchanged _ _ ((if_neg ha).trans (if_pos hp))
  by_cases hfull : s.dp.dlen = s.cfg.lineCap
  · exact .of_unchanged _ _ ((if_neg ha).trans ((if_neg hp).trans (if_pos hfull)))
  · exact .of_effect _ _ (.lineExtended a d (Bool.eq_false_of_not_eq_true hp) hfull)
      ((if_neg ha).trans ((if_neg hp).trans (if_neg hfull)))

theorem answered_status (a : Byte) : Answered (.status a) s := by
  cases hpay : statusPayload a s with
  | some p => exact .of_unchanged .ok p (by simp only [exec, execStatus, hpay])
  | none => exact .of_unchanged .range 0 (by simp only [exec, execStatus, hpay])

theorem answered_histRd (a d : Byte) : Answered (.histRd a d) s := by
  by_cases ha : s.le.hcount ≤ a.toNat
  · exact .of_unchanged .range 0 (if_pos ha)
  by_cases hd : histLen (slotBack (1 + a.toNat) s) s ≤ d.toNat
  · exact .of_unchanged _ _ ((if_neg ha).trans (if_pos hd))
  · exact .of_unchanged _ _ ((if_neg ha).trans (if_neg hd))

theorem answered_reconf (d : Byte) : Answered (.reconf d) s := by
  cases hv : baudValid s.cfg d with
  | false => exact .of_unchanged _ _ (if_neg (by rw [hv]; decide))
  | true =>
    have hd : d ∉ s.cfg.baudRefused := by simpa [baudValid] using hv
    have hexec : exec (.reconf d) s
        = .next (reinit d (Config.freeInitOk s.draws) { quiesce s with draws := s.draws + 1 }) := if_pos hv
    cases hok : Config.freeInitOk s.draws with
    | true => exact .of_effect .ok (zext28 d) (.reinitialized d d hd (.inl rfl)) (hexec.trans (by rw [hok]; rfl))
    | false =>
      exact .of_effect .fail (zext28 s.baud) (.reinitialized d s.baud hd (.inr rfl)) (hexec.trans (by rw [hok]; rfl))

/-- Every request answers, after one of the effects listed. -/
theorem exec_request {i : Instr} (hi : i.format = .req32) : Answered i s := by
  cases i with
  | nop => exact .of_unchanged .ok 0 rfl
  | rxPop => exact answered_rxPop s
  | txSend d => exact .of_effect .ok 1 (.sent d) rfl
  | leFeed d => exact .unless_busy rfl (.fed d)
  | poll => exact answered_poll s
  | lineWrClr => exact .unless_busy rfl .lineCleared
  | lineWrPut a d => exact answered_lineWrPut s a d
  | execLine => exact .unless_busy rfl .executed
  | tab => exact .unless_busy rfl .completed
  | lineRd d => exact .of_ite rfl (fun _ => .unchanged _) fun _ => .unchanged _
  | tokRd d => exact .of_ite rfl (fun _ => .unchanged _) fun _ => .unchanged _
  | cmdStat => exact .of_unchanged _ _ rfl
  | cmdDone => exact .of_ite rfl .finished fun _ => .unchanged _
  | status a => exact answered_status s a
  | histRd a d => exact answered_histRd s a d
  | reconf d => exact answered_reconf s d
  | illegal w => exact .of_unchanged .illegal 0 rfl
  | leIgnore | leEscEnter | leEnter | leBackspace | leInsert | leOverflow | leEscDrop | leCsiEnter | leHistPrev
  | leHistNext | leCurRight | leCurLeft | leCsiDrop | leIllegalEscState | rxByte | txDone => cases hi

/-- Every request word is a request. -/
theorem decodeReq_format (w : Word) : (decodeReq w).format = .req32 := by
  simp only [decodeReq, apply_ite Instr.format]
  simp only [Instr.format, ite_self]

/-! ## EXECUTE, COMPLETE and the editor -/

/-- A matched name stands in the table. -/
theorem matchName_lt {table : List (List Byte)} {t : List Byte} {i : Nat} (h : matchName table t = some i) :
    i < table.length := (List.findIdx?_eq_some_iff_getElem.1 h).1

theorem helpIndex_lt {table : List (List Byte)} {p : List Byte} {i : Nat} (h : helpIndex table p = some i) :
    i < table.length := (List.findIdx?_eq_some_iff_getElem.1 h).1

theorem candidates_lt {table : List (List Byte)} {p : List Byte} {i : Nat} (h : i ∈ candidates table p) :
    i < table.length := List.mem_range.1 (List.mem_filter.1 h).1

/-- What EXECUTE can leave behind: the tokens, the diagnostic, or a hand-off of a table entry. -/
theorem execute_snd_cases (fromLe : Bool) :
    (execute fromLe s).2 = tokenize s ∨ (execute fromLe s).2 = emit s.cfg.msgUnknown (tokenize s)
      ∨ ∃ i < s.cfg.cmdTable.length, keptTokens s ≠ [] ∧ (execute fromLe s).2 = handOff fromLe i (tokenize s) := by
  by_cases hnone : keptTokens s = []
  · exact .inl (congrArg Prod.snd (execute_of_no_token hnone))
  cases hm : matchName s.cfg.cmdTable (tokenBytes 0 (tokenize s)) with
  | none => exact .inr (.inl (congrArg Prod.snd (execute_of_unknown hnone hm)))
  | some i => exact .inr (.inr ⟨i, matchName_lt hm, hnone, congrArg Prod.snd (execute_of_match hnone hm)⟩)

/-- What COMPLETE can leave behind: nothing new, a listing, a completed line, or the help line executed. -/
theorem complete_snd_cases :
    (∃ l, (complete s).2 = emit l s)
      ∨ (∃ i < s.cfg.cmdTable.length, (complete s).2 = setDispatchLine (commandName s i) s)
      ∨ ∃ i < s.cfg.cmdTable.length,
          (complete s).2 = (execute false (setDispatchLine (commandName s i ++ helpSuffix) s)).2 := by
  by_cases hempty : s.dp.dlen = 0
  · exact .inl ⟨[], congrArg Prod.snd (complete_of_empty hempty)⟩
  cases hhelp : helpIndex s.cfg.cmdTable (dispatchLine s) with
  | some i => exact .inr (.inr ⟨i, helpIndex_lt hhelp, congrArg Prod.snd (complete_of_help hempty hhelp)⟩)
  | none =>
    rw [complete_of_prefix hempty hhelp, completePrefix]
    split
    · exact .inl ⟨[], rfl⟩
    · next i hone => exact .inr (.inl ⟨i, candidates_lt (hone ▸ List.mem_singleton_self i), rfl⟩)
    · exact .inl ⟨_, rfl⟩

/-- The byte step runs the selected action and may count a draw. -/
theorem leStep_snd (b : Byte) : ∃ n, (leStep b s).2 = { actEffect b s (leActOf b s) with draws := n } := by
  unfold leStep
  split
  · exact ⟨_, rfl⟩
  · exact ⟨_, rfl⟩

end Sys2Proof.Machine
end

section
/-! The editor's actions (42_line_editor.md R260 to R272): but for ENTER and the fault of escape state 3, an action
gives the editor a new state within its bounds and emits some bytes, and does nothing else. -/

namespace Sys2Proof.Machine

/-- `t` is `s` with a new state of the editor, within the editor's bounds if the old one was, and bytes emitted. -/
def EditsLine (s t : State) : Prop :=
  ∃ l le, (LeInv s.cfg s.le → LeInv s.cfg le) ∧ t = emit l { s with le := le }

/-- `emit` does not look at the editor. -/
theorem emit_withLe (l : List Byte) (s : State) (le : LineEditor) :
    { emit l s with le := le } = emit l { s with le := le } := by
  induction l generalizing s with
  | nil => rfl
  | cons b rest ih => rw [emit_cons, emit_cons, ih, emitByte_eq, emitByte_eq]

namespace EditsLine
variable {s t u : State}

theorem of_le {le : LineEditor} (h : LeInv s.cfg s.le → LeInv s.cfg le) : EditsLine s { s with le := le } :=
  ⟨[], le, h, rfl⟩

theorem refl (s : State) : EditsLine s s := of_le id

theorem of_emit (l : List Byte) (s : State) : EditsLine s (emit l s) := ⟨l, s.le, id, rfl⟩

theorem trans (h : EditsLine s t) (h' : EditsLine t u) : EditsLine s u := by
  obtain ⟨l, le, hle, rfl⟩ := h
  obtain ⟨l', le', hle', rfl⟩ := h'
  refine ⟨l ++ l', le', fun hinv => ?_, ?_⟩
  · simpa using hle' (by simpa using hle hinv)
  · rw [emit_append, emit_withLe]

end EditsLine

variable (s : State)

theorem editsLine_setEsc {e : BitVec 2} (he : e ≠ 3) : EditsLine s (setEsc e s) := .of_le fun h => h.escape he

theorem editTail_length : (editTail s).length = s.le.len - s.le.cur := Memory.slice_length _ _ _

theorem histLine_length (j : Nat) : (histLine j s).length = histLen j s := Memory.slice_length _ _ _

theorem editsLine_loadEntry (j : Nat) : EditsLine s (loadEntry j s) := by
  refine EditsLine.trans (.of_le fun h => h.edit ?_ le_rfl (h.hlen_le j)) (.of_emit _ _)
  refine Memory.writeBytes_keeps_ok _ ?_ h.line_bounds.1
  rw [histLine_length, Nat.zero_add]
  exact h.hlen_le j

theorem editsLine_actBackspace : EditsLine s (actBackspace s) := by
  unfold actBackspace
  split
  · exact .refl s
  · next hcur =>
    refine EditsLine.trans (.of_le fun h => ?_) (.of_emit _ _)
    obtain ⟨hbuf, hle, hlen⟩ := h.line_bounds
    have htail : s.le.cur - 1 + (editTail s).length ≤ s.cfg.lineCap := by
      rw [editTail_length]
      omega
    exact h.edit (Memory.write_keeps_ok 0 (by omega) (Memory.writeBytes_keeps_ok _ htail hbuf)) (by omega) (by omega)

theorem editsLine_insertByte (b : Byte) (hroom : s.le.len ≠ s.cfg.lineCap) : EditsLine s (insertByte b s) := by
  refine EditsLine.trans (.of_le fun h => ?_) (.of_emit _ _)
  obtain ⟨hbuf, hle, hlen⟩ := h.line_bounds
  have htail : s.le.cur + 1 + (editTail s).length ≤ s.cfg.lineCap := by
    rw [editTail_length]
    omega
  exact h.edit (Memory.write_keeps_ok b (by omega) (Memory.writeBytes_keeps_ok _ htail hbuf)) (by omega) (by omega)

theorem editsLine_discardLine : EditsLine s (discardLine s) := by
  refine EditsLine.trans (EditsLine.trans (.of_le fun h => ?_) (.of_emit _ _)) (.of_emit _ _)
  exact ((h.edit h.line_bounds.1 le_rfl (Nat.zero_le _)).browse (Nat.zero_le _)).escape (by decide)

theorem editsLine_typePrintable (b : Byte) : EditsLine s (typePrintable b s) := by
  unfold typePrintable
  split
  · exact editsLine_discardLine s
  · next hroom => exact editsLine_insertByte s b (by simpa [lineFull] using hroom)

/-- A line cleared on the terminal in Normal, before a browse. -/
theorem editsLine_clear : EditsLine s (clearLine (setEsc 0 s)) :=
  (editsLine_setEsc s (by decide)).trans (.of_emit _ _)

theorem editsLine_actHistPrev : EditsLine s (actHistPrev s) := by
  unfold actHistPrev
  split
  · next hmore =>
    refine ((editsLine_clear s).trans (.of_le fun h => h.browse ?_)).trans (editsLine_loadEntry _ _)
    simpa [clearLine] using hmore
  · exact editsLine_setEsc s (by decide)

theorem editsLine_actHistNext : EditsLine s (actHistNext s) := by
  unfold actHistNext
  split
  · exact editsLine_setEsc s (by decide)
  · have hback : EditsLine s { clearLine (setEsc 0 s) with le.hdepth := s.le.hdepth - 1 } := by
      refine (editsLine_clear s).trans (.of_le fun h => h.browse ?_)
      have := h.hdepth_le
      simp only [clearLine, emit_le, setEsc_le] at this ⊢
      omega
    dsimp only
    split
    · exact hback.trans (.of_le fun h => h.edit h.line_bounds.1 le_rfl (Nat.zero_le _))
    · exact hback.trans (editsLine_loadEntry _ _)

/-- The cursor moved within the line. -/
theorem editsLine_moveCursor {cur : Nat} (l : List Byte) (hcur : s.le.cur ≤ s.le.len → cur ≤ s.le.len) :
    EditsLine s { emit l (setEsc 0 s) with le.cur := cur } := by
  refine ((editsLine_setEsc s (by decide)).trans (.of_emit l _)).trans (.of_le fun h => ?_)
  obtain ⟨hbuf, hle, hlen⟩ := h.line_bounds
  exact h.edit hbuf (by simpa using hcur (by simpa using hle)) hlen

theorem editsLine_actCurRight : EditsLine s (actCurRight s) := by
  unfold actCurRight
  split
  · next hright => exact editsLine_moveCursor s _ fun _ => hright
  · exact editsLine_setEsc s (by decide)

theorem editsLine_actCurLeft : EditsLine s (actCurLeft s) := by
  unfold actCurLeft
  split
  · exact editsLine_moveCursor s _ fun h => (Nat.sub_le _ _).trans h
  · exact editsLine_setEsc s (by decide)

/-- What an editor action can do. -/
theorem actEffect_cases (b : Byte) (act : LeAct) :
    actEffect b s act = actEnter s ∨ actEffect b s act = raise .illegalEscState s
      ∨ EditsLine s (actEffect b s act) := by
  cases act with
  | enter => exact .inl rfl
  | illegalEscState => exact .inr (.inl rfl)
  | ignore => exact .inr (.inr (.refl s))
  | escEnter | escDrop | csiEnter | csiDrop => exact .inr (.inr (editsLine_setEsc s (by decide)))
  | backspace => exact .inr (.inr (editsLine_actBackspace s))
  | insert | overflow => exact .inr (.inr (editsLine_typePrintable s b))
  | histPrev => exact .inr (.inr (editsLine_actHistPrev s))
  | histNext => exact .inr (.inr (editsLine_actHistNext s))
  | curRight => exact .inr (.inr (editsLine_actCurRight s))
  | curLeft => exact .inr (.inr (editsLine_actCurLeft s))

end Sys2Proof.Machine
end

section
/-! Which fields a tick of each domain leaves alone (10_state.md R32, 60_exceptions.md R398). -/

namespace Sys2Proof.Machine

/-! ## The next tick -/

/-- Taking the next tick moves the environment's list and the draw count. -/
theorem exists_fetch (s : State) : ∃ env draws, (fetch s).2 = { s with env := env, draws := draws } :=
  ⟨_, _, fetch_touches s⟩

/-! ## TxDom -/

/-- What TxDom's logic does: nothing, or a pop and then the start of a byte or the end of the chain. -/
def EngineEffect (s u : State) : Prop :=
  u = s ∨ ∃ byte t, popTx s = (byte, t) ∧ (u = t ∨ u = { t with te.busy := false } ∨ ∃ v, u = startTx v t)

theorem engineEffect_idleStart (s : State) : EngineEffect s (idleStart s) := by
  unfold idleStart
  split
  · rcases hpop : popTx s with ⟨_ | v, t⟩
    · exact .inr ⟨_, t, hpop, .inl rfl⟩
    · exact .inr ⟨_, t, hpop, .inr (.inr ⟨v, rfl⟩)⟩
  · exact .inl rfl

theorem engineEffect_chainNext (s : State) : EngineEffect s (chainNext s) := by
  unfold chainNext
  rcases hpop : popTx s with ⟨_ | v, t⟩
  · exact .inr ⟨_, t, hpop, .inr (.inl rfl)⟩
  · exact .inr ⟨_, t, hpop, .inr (.inr ⟨v, rfl⟩)⟩

/-- A TxDom tick is its phases and then the engine's logic. -/
theorem runTick_tx (done : Bool) (s : State) :
    ∃ u, runTick (.tx done) s = .next u ∧ EngineEffect (txPhases s) u := by
  cases done with
  | false => exact ⟨_, rfl, engineEffect_idleStart _⟩
  | true =>
    have hexec : exec .txDone (txPhases s) = .next (if s.te.busy then chainNext (txPhases s) else txPhases s) := rfl
    cases hbusy : s.te.busy with
    | false => exact ⟨idleStart (txPhases s), by simp [runTick, thenIdleStart, hexec, hbusy], engineEffect_idleStart _⟩
    | true => exact ⟨chainNext (txPhases s), by simp [runTick, thenIdleStart, hexec, hbusy], engineEffect_chainNext _⟩

theorem coreFields_popTx (s : State) : coreFields (popTx s).2 = coreFields s := by
  rw [popTx_eq]
  simp only [coreFields, coreTransportFields]
  rw [Fifo.pop_touches]

theorem rxDomFields_popTx (s : State) : rxDomFields (popTx s).2 = rxDomFields s := by rw [popTx_eq]; rfl

theorem EngineEffect.frame {s u : State} (h : EngineEffect s u) :
    coreFields u = coreFields s ∧ rxDomFields u = rxDomFields s := by
  rcases h with rfl | ⟨byte, t, hpop, hu⟩
  · exact ⟨rfl, rfl⟩
  · obtain rfl : (popTx s).2 = t := congrArg Prod.snd hpop
    rcases hu with rfl | rfl | ⟨v, rfl⟩ <;> exact ⟨coreFields_popTx s, rxDomFields_popTx s⟩

/-! ## Core -/

/-- The fields of RxDom and TxDom, which a Core request other than RECONF leaves alone. -/
def foreignFields (s : State) := (rxDomFields s, txDomFields s)

theorem foreignFields_emit (l : List Byte) (s : State) : foreignFields (emit l s) = foreignFields s :=
  emit_induct (P := fun t => foreignFields t = foreignFields s)
    (fun b t h => by rw [emitByte_eq, ← h]; rfl) l s rfl

theorem foreignFields_popRx {s u : State} {byte : Option Byte} (hpop : popRx s = (byte, u)) :
    foreignFields u = foreignFields s := by
  rw [popRx_eq] at hpop
  obtain rfl := congrArg Prod.snd hpop
  simp only [foreignFields, rxDomFields, txDomFields]
  rw [Fifo.pop_touches]

theorem foreignFields_execute (fromLe : Bool) (s : State) : foreignFields (execute fromLe s).2 = foreignFields s := by
  rcases execute_snd_cases s fromLe with h | h | ⟨i, -, -, h⟩ <;> rw [h]
  · rfl
  · exact foreignFields_emit _ _
  · rfl

theorem foreignFields_complete (s : State) : foreignFields (complete s).2 = foreignFields s := by
  rcases complete_snd_cases s with ⟨l, h⟩ | ⟨i, -, h⟩ | ⟨i, -, h⟩ <;> rw [h]
  · exact foreignFields_emit _ _
  · rfl
  · exact foreignFields_execute _ _

theorem foreignFields_commitLine (s : State) : foreignFields (commitLine s) = foreignFields s := by
  unfold commitLine
  split <;> rfl

theorem foreignFields_actEnter (s : State) : foreignFields (actEnter s) = foreignFields s := by
  have hline : foreignFields (handLine (commitLine (emit s.cfg.newline s))) = foreignFields s :=
    (foreignFields_commitLine _).trans (foreignFields_emit _ _)
  unfold actEnter promptUnlessDispatched
  dsimp only
  split
  · rw [foreignFields_execute, hline]
  · rw [foreignFields_emit, foreignFields_execute, hline]

theorem foreignFields_actEffect (b : Byte) (s : State) (act : LeAct) :
    foreignFields (actEffect b s act) = foreignFields s := by
  rcases actEffect_cases s b act with h | h | ⟨l, le, -, h⟩ <;> rw [h]
  · exact foreignFields_actEnter s
  · rfl
  · exact foreignFields_emit _ _

theorem foreignFields_leStep (b : Byte) (s : State) : foreignFields (leStep b s).2 = foreignFields s := by
  obtain ⟨n, h⟩ := leStep_snd s b
  rw [h]
  exact foreignFields_actEffect b s _

theorem foreignFields_finishCommand (s : State) : foreignFields (finishCommand s) = foreignFields s := by
  unfold finishCommand
  dsimp only
  split
  · exact foreignFields_emit _ _
  · rfl

/-- No request but RECONF touches a field of RxDom or TxDom. -/
theorem RequestEffect.foreignFields_eq {s u : State} {i : Instr} (h : RequestEffect s i u) (hi : ∀ d, i ≠ .reconf d) :
    foreignFields u = foreignFields s := by
  cases h with
  | unchanged => rfl
  | popped hpop => exact foreignFields_popRx hpop
  | polledNone _ hpop => exact foreignFields_popRx hpop
  | sent d => exact foreignFields_emit [d] s
  | fed d => exact foreignFields_leStep d s
  | polled _ hpop => exact (foreignFields_leStep _ _).trans (foreignFields_popRx hpop)
  | lineCleared => rfl
  | lineExtended => rfl
  | executed => exact foreignFields_execute false s
  | completed => exact foreignFields_complete s
  | finished => exact foreignFields_finishCommand s
  | reinitialized d => exact absurd rfl (hi d)

/-- A Core tick that does not run RECONF leaves the fields of RxDom and TxDom alone. -/
theorem foreignFields_runTick_core {req : Option Word} {s t : State}
    (hreq : ∀ w d, req = some w → decodeReq w ≠ .reconf d) (h : runTick (.core req) s = .next t) :
    foreignFields t = foreignFields s := by
  cases req with
  | none =>
    cases h
    rfl
  | some w =>
    obtain ⟨st, p, u, hu, hexec⟩ := exec_request (corePhases s) (decodeReq_format w)
    obtain rfl : respond st p u = t := Host.Outcome.next.inj (hexec.symm.trans h)
    exact hu.foreignFields_eq fun d => hreq w d rfl

end Sys2Proof.Machine

open Sys2Proof.Machine

/-- Settles O9: by the domain of the tick, each of whose operations leaves the other two domains' fields alone. -/
theorem domainsOwnTheirFields : Obligations.DomainsOwnTheirFields := by
  intro s t hstep
  obtain ⟨env, draws, hfetch⟩ := exists_fetch s
  rw [step_eq_runTick, hfetch] at hstep
  cases htick : nextTick s with
  | core req =>
    intro hreq
    rw [htick] at hstep
    have hforeign := foreignFields_runTick_core hreq hstep
    exact Prod.mk.inj hforeign
  | rx byte =>
    rw [htick] at hstep
    cases byte with
    | none => cases hstep; exact ⟨rfl, rfl⟩
    | some b =>
      obtain rfl := Host.Outcome.next.inj hstep
      rw [pushRx_eq]
      exact ⟨rfl, rfl⟩
  | tx done =>
    rw [htick] at hstep
    obtain ⟨u, hrun, heff⟩ := runTick_tx done { s with env := env, draws := draws }
    obtain rfl : u = t := Host.Outcome.next.inj (hrun.symm.trans hstep)
    exact heff.frame

end

section
/-! The invariant (10_state.md R61): it holds after reset, and every operation of a tick keeps it. -/

namespace Sys2Proof.Machine

/-! ## Reset -/

theorem lagOf_zero (c : FifoCfg) : lagOf c 0 0 = 0 := by
  have hbin : bin c.pw 0 = 0 := bin_gray (Nat.two_pow_pos c.pw)
  exact subMod_eq_of_add_modEq (modulus_pos c) (by rw [hbin])

/-- After reset every copy is 0 and so is the pointer. -/
theorem copiesOk_reset (c : FifoCfg) (depth : Nat) : CopiesOk c 0 0 0 (0 :: List.replicate depth 0) := by
  have hzero : ∀ x ∈ 0 :: List.replicate depth 0, x = 0 := by simp
  have hlag : ∀ x ∈ 0 :: List.replicate depth 0, lagOf c 0 x = 0 := fun x hx => hzero x hx ▸ lagOf_zero c
  exact ⟨fun x hx => hzero x hx ▸ modulus_pos c,
    List.pairwise_of_forall_mem_list fun x hx _ _ => (hlag x hx).le.trans (Nat.zero_le _),
    fun _ _ => Nat.zero_le _, fun x hx => (hlag x hx).le⟩

theorem fifoOk_reset (c : FifoCfg) (depth : Nat) : FifoOk c depth none (Fifo.reset depth) := by
  refine ⟨?_, fun _ => crossInv_iff.2 ⟨le_rfl, copiesOk_reset c depth, copiesOk_reset c depth⟩, by simp [Fifo.reset]⟩
  exact ⟨storageOk_nil _, (Nat.zero_mod _).symm, (Nat.zero_mod _).symm, List.length_replicate, List.length_replicate,
    List.Pairwise.nil, by simp [Fifo.reset], by simp [Fifo.reset]⟩

theorem leInv_reset {c : Config} (hc : LegalSizes c) : LeInv c (State.resetWith c).le := by
  obtain ⟨-, -, -, -, hhist, -⟩ := hc
  refine ⟨storageOk_nil _, le_rfl, Nat.zero_le _, List.length_replicate, fun m hm => ?_, List.length_replicate,
    fun n hn => ?_, hhist, Nat.zero_le _, le_rfl, by change (0 : BitVec 2) ≠ 3; decide⟩
  · rw [List.eq_of_mem_replicate hm]
    exact storageOk_nil _
  · rw [List.eq_of_mem_replicate hn]
    exact Nat.zero_le _

theorem dpInv_reset {c : Config} (ht : LegalTable c) : DpInv c (State.resetWith c).dp :=
  ⟨storageOk_nil _, Nat.zero_le _, Nat.zero_le _, List.length_replicate, List.length_replicate,
    fun k hk => absurd (List.mem_range.1 hk) (Nat.not_lt_zero k), ht.1, fun hp => absurd hp Bool.false_ne_true⟩

theorem inv_resetWith {c : Config} (hc : LegalConfig c) : Inv (State.resetWith c) := by
  have ⟨_, _, hsizes, htable, _, hbaud⟩ := hc
  exact inv_iff.2 ⟨hc, fifoOk_reset _ _, fifoOk_reset _ _,
    ⟨List.length_replicate, List.length_replicate, List.length_replicate, hbaud⟩, leInv_reset hsizes,
    dpInv_reset htable⟩

/-! ## The parts of the invariant, and one of them replaced -/

section
variable {s : State}

theorem Inv.legal (h : Inv s) : LegalConfig s.cfg := h.1

theorem Inv.legal_rx (h : Inv s) : LegalFifo s.cfg.rx := h.legal.1

theorem Inv.legal_tx (h : Inv s) : LegalFifo s.cfg.tx := h.legal.2.1

theorem Inv.depth_pos (h : Inv s) : 0 < s.cfg.depth := by
  obtain ⟨-, -, ⟨hdepth, -⟩, -⟩ := h.legal
  exact Nat.zero_lt_of_lt hdepth

theorem Inv.rxOk (h : Inv s) : FifoOk s.cfg.rx s.cfg.depth s.g.fault s.rx := (inv_iff.1 h).2.1

theorem Inv.txOk (h : Inv s) : FifoOk s.cfg.tx s.cfg.depth s.g.fault s.tx := (inv_iff.1 h).2.2.1

theorem Inv.engine (h : Inv s) : EngineInv s := by
  obtain ⟨-, -, -, heng, -⟩ := inv_iff.1 h
  exact heng

theorem Inv.leInv (h : Inv s) : LeInv s.cfg s.le := by
  obtain ⟨-, -, -, -, hle, -⟩ := inv_iff.1 h
  exact hle

theorem Inv.dpInv (h : Inv s) : DpInv s.cfg s.dp := by
  obtain ⟨-, -, -, -, -, hdp⟩ := inv_iff.1 h
  exact hdp

theorem Inv.withLe {le : LineEditor} (h : Inv s) (hle : LeInv s.cfg le) : Inv { s with le := le } := by
  obtain ⟨hcfg, hrx, htx, hcross, hlap, heng, -, hdp⟩ := h
  exact ⟨hcfg, hrx, htx, hcross, hlap, heng, hle, hdp⟩

theorem Inv.withDp {dp : Dispatcher} (h : Inv s) (hdp : DpInv s.cfg dp) : Inv { s with dp := dp } := by
  obtain ⟨hcfg, hrx, htx, hcross, hlap, heng, hle, -⟩ := h
  exact ⟨hcfg, hrx, htx, hcross, hlap, heng, hle, hdp⟩

/-- The engine's one-bit synchronizers, the lap flag's, and the rate code replaced. -/
theorem Inv.withEngine {te : TxEngine} {lapSync : List Bool} {baud : Byte} (h : Inv s)
    (hen : te.enSync.length = s.cfg.depth) (hbusy : te.busySync.length = s.cfg.depth)
    (hlaps : lapSync.length = s.cfg.depth) (hbaud : baud ∉ s.cfg.baudRefused) :
    Inv { s with te := te, lapSync := lapSync, baud := baud } := by
  obtain ⟨hcfg, hrx, htx, hcross, hlap, -, hle, hdp⟩ := h
  exact ⟨hcfg, hrx, htx, hcross, hlap, ⟨hen, hbusy, hlaps, hbaud⟩, hle, hdp⟩

/-- The RX FIFO replaced, and a fault recorded if none was. -/
theorem Inv.withRx {f : Fifo} {fault : Option Fault} (h : Inv s) (hf : FifoOk s.cfg.rx s.cfg.depth fault f)
    (hfault : fault = none → s.g.fault = none) : Inv { s with rx := f, g.fault := fault } := by
  obtain ⟨hcfg, -, htx, heng, hle, hdp⟩ := inv_iff.1 h
  exact inv_iff.2 ⟨hcfg, hf, htx.weaken hfault, heng, hle, hdp⟩

/-- The TX FIFO replaced, and a fault recorded if none was. -/
theorem Inv.withTx {f : Fifo} {fault : Option Fault} (h : Inv s) (hf : FifoOk s.cfg.tx s.cfg.depth fault f)
    (hfault : fault = none → s.g.fault = none) : Inv { s with tx := f, g.fault := fault } := by
  obtain ⟨hcfg, hrx, -, heng, hle, hdp⟩ := inv_iff.1 h
  exact inv_iff.2 ⟨hcfg, hrx.weaken hfault, hf, heng, hle, hdp⟩

/-! ## Pushes, pops and phases -/

theorem fault_of_push_eq_none {lap : Bool} {fault : Option Fault}
    (h : (if lap then fault.or (some .lapOverrun) else fault) = none) : fault = none := by
  cases lap with
  | true => exact absurd h (raised_ne_none fault _)
  | false => exact h

theorem Inv.pushRx (b : Byte) (h : Inv s) : Inv (pushRx b s) := by
  rw [pushRx_eq]
  exact h.withRx (h.rxOk.push h.legal_rx h.depth_pos b) fault_of_push_eq_none

theorem Inv.emitByte (b : Byte) (h : Inv s) : Inv (emitByte b s) := by
  obtain ⟨hen, hbusy, hlaps, hbaud⟩ := h.engine
  rw [emitByte_eq]
  exact (h.withTx (h.txOk.push h.legal_tx h.depth_pos b) fault_of_push_eq_none).withEngine hen hbusy hlaps hbaud

theorem Inv.emit (l : List Byte) (h : Inv s) : Inv (emit l s) := emit_induct (fun b _ => Inv.emitByte b) l s h

theorem Inv.popRx {byte : Option Byte} {u : State} (h : Inv s) (hpop : popRx s = (byte, u)) : Inv u := by
  rw [popRx_eq] at hpop
  obtain rfl := congrArg Prod.snd hpop
  exact h.withRx (h.rxOk.pop h.depth_pos _) id

theorem Inv.popTx {byte : Option Byte} {u : State} (h : Inv s) (hpop : popTx s = (byte, u)) : Inv u := by
  rw [popTx_eq] at hpop
  obtain rfl := congrArg Prod.snd hpop
  exact h.withTx (h.txOk.pop h.depth_pos _) id

theorem Inv.rxPhases (h : Inv s) : Inv (rxPhases s) := h.withRx h.rxOk.writePhases id

theorem Inv.txPhases (h : Inv s) : Inv (txPhases s) := by
  obtain ⟨hen, hbusy, hlaps, hbaud⟩ := h.engine
  exact (h.withTx h.txOk.readPhases id).withEngine ((syncShift_length _ _).trans hen) hbusy hlaps hbaud

theorem Inv.corePhases (h : Inv s) : Inv (corePhases s) := by
  obtain ⟨hen, hbusy, hlaps, hbaud⟩ := h.engine
  exact ((h.withRx h.rxOk.readPhases id).withTx h.txOk.writePhases id).withEngine hen
    ((syncShift_length _ _).trans hbusy) ((syncShift_length _ _).trans hlaps) hbaud

theorem Inv.raise (x : Fault) (h : Inv s) : Inv (raise x s) := by
  have hnone : s.g.fault.or (some x) = none → s.g.fault = none := fun hn => absurd hn (raised_ne_none _ x)
  exact h.withRx (h.rxOk.weaken hnone) hnone

/-! ## The engine -/

theorem EngineEffect.inv {u : State} (h : Inv s) (heff : EngineEffect s u) : Inv u := by
  rcases heff with rfl | ⟨byte, t, hpop, hu⟩
  · exact h
  · have ht : Inv t := h.popTx hpop
    rcases hu with rfl | rfl | ⟨v, rfl⟩ <;> exact ht

/-! ## EXECUTE and COMPLETE -/

theorem Inv.tokenize (h : Inv s) (hp : s.dp.pending = false) : Inv (tokenize s) :=
  h.withDp (h.dpInv.tokens hp (keptTokens_length_le s) fun p hp =>
    (keptTokens_end_le s p hp).trans h.dpInv.line_bounds.2)

theorem Inv.execute (fromLe : Bool) (h : Inv s) (hp : s.dp.pending = false) : Inv (execute fromLe s).2 := by
  have ht := h.tokenize hp
  rcases execute_snd_cases s fromLe with he | he | ⟨i, hi, htok, he⟩ <;> rw [he]
  · exact ht
  · exact ht.emit _
  · exact ht.withDp (ht.dpInv.handOff fromLe hi (List.length_pos_iff.2 htok))

/-- A line put in place by completion. -/
theorem Inv.setDispatchLine {l : List Byte} (h : Inv s) (hl : l.length ≤ s.cfg.lineCap) :
    Inv (setDispatchLine l s) :=
  h.withDp (h.dpInv.line (Memory.writeBytes_keeps_ok l (by rwa [Nat.zero_add]) h.dpInv.line_bounds.1) hl)

/-- A name leaves room for `" help"` in the line. -/
theorem Inv.commandName_length (h : Inv s) {i : Nat} (hi : i < s.cfg.cmdTable.length) :
    (commandName s i).length + 5 ≤ s.cfg.lineCap := by
  obtain ⟨-, -, -, ⟨-, -, -, hnames⟩, -⟩ := h.legal
  rw [commandName, List.getD_eq_getElem _ _ hi]
  obtain ⟨-, hroom, -⟩ := hnames _ (List.getElem_mem hi)
  exact hroom

theorem Inv.complete (h : Inv s) (hp : s.dp.pending = false) : Inv (complete s).2 := by
  rcases complete_snd_cases s with ⟨l, he⟩ | ⟨i, hi, he⟩ | ⟨i, hi, he⟩ <;> rw [he]
  · exact h.emit l
  · exact h.setDispatchLine ((Nat.le_add_right _ 5).trans (h.commandName_length hi))
  · refine (h.setDispatchLine ?_).execute false hp
    rw [List.length_append]
    exact h.commandName_length hi

/-! ## The editor -/

theorem EditsLine.inv {t : State} (h : Inv s) (he : EditsLine s t) : Inv t := by
  obtain ⟨l, le, hle, rfl⟩ := he
  exact (h.withLe (hle h.leInv)).emit l

theorem editLine_length (s : State) : (editLine s).length = s.le.len := Memory.slice_length _ _ _

theorem Inv.commitLine (h : Inv s) : Inv (commitLine s) := by
  unfold Machine.commitLine
  split
  · obtain ⟨-, -, hlen⟩ := h.leInv.line_bounds
    refine h.withLe (h.leInv.commit (Memory.writeBytes_keeps_ok _ ?_ (h.leInv.hist_ok _)) hlen)
    rwa [editLine_length, Nat.zero_add]
  · exact h

theorem Inv.handLine (h : Inv s) : Inv (handLine s) := by
  obtain ⟨hbuf, -, hlen⟩ := h.leInv.line_bounds
  have hle : LeInv s.cfg { s.le with hdepth := 0, len := 0, cur := 0 } :=
    (h.leInv.browse (Nat.zero_le _)).edit hbuf le_rfl (Nat.zero_le _)
  refine (h.withLe hle).withDp (h.dpInv.line (Memory.writeBytes_keeps_ok _ ?_ h.dpInv.line_bounds.1) hlen)
  rwa [editLine_length, Nat.zero_add]

theorem commitLine_dp (s : State) : (commitLine s).dp = s.dp := by
  unfold commitLine
  split <;> rfl

theorem Inv.actEnter (h : Inv s) (hp : s.dp.pending = false) : Inv (actEnter s) := by
  have hline : Inv (Machine.handLine (Machine.commitLine (Machine.emit s.cfg.newline s))) :=
    (h.emit _).commitLine.handLine
  have hidle : (Machine.handLine (Machine.commitLine (Machine.emit s.cfg.newline s))).dp.pending = false := by
    simpa [commitLine_dp] using hp
  have hexec := hline.execute true hidle
  unfold Machine.actEnter promptUnlessDispatched
  dsimp only
  split
  · exact hexec
  · exact hexec.emit _

theorem Inv.actEffect (b : Byte) (act : LeAct) (h : Inv s) (hp : s.dp.pending = false) : Inv (actEffect b s act) := by
  rcases actEffect_cases s b act with he | he | he
  · exact he ▸ h.actEnter hp
  · exact he ▸ h.raise _
  · exact he.inv h

theorem Inv.leStep (b : Byte) (h : Inv s) (hp : s.dp.pending = false) : Inv (leStep b s).2 := by
  obtain ⟨n, he⟩ := leStep_snd s b
  rw [he]
  exact h.actEffect b _ hp

/-! ## Requests and ticks -/

theorem popRx_dp {byte : Option Byte} {u : State} (hpop : Machine.popRx s = (byte, u)) : u.dp = s.dp := by
  rw [popRx_eq] at hpop
  obtain rfl := congrArg Prod.snd hpop
  rfl

theorem Inv.finishCommand (h : Inv s) : Inv (finishCommand s) := by
  have hdone := h.withDp h.dpInv.release
  unfold Machine.finishCommand
  dsimp only
  split
  · exact hdone.emit _
  · exact hdone

theorem RequestEffect.inv {i : Instr} {u : State} (h : Inv s) (heff : RequestEffect s i u) : Inv u := by
  cases heff with
  | unchanged => exact h
  | popped hpop => exact h.popRx hpop
  | polledNone _ hpop => exact h.popRx hpop
  | sent d => exact h.emitByte d
  | fed d hp => exact h.leStep d hp
  | polled hp hpop => exact (h.popRx hpop).leStep _ (popRx_dp hpop ▸ hp)
  | lineCleared => exact h.withDp (h.dpInv.line h.dpInv.line_bounds.1 (Nat.zero_le _))
  | lineExtended a d _ hroom =>
    obtain ⟨hline, hlen⟩ := h.dpInv.line_bounds
    have hlt : s.dp.dlen < s.cfg.lineCap := Nat.lt_of_le_of_ne hlen hroom
    exact h.withDp (h.dpInv.line (Memory.write_keeps_ok d hlt hline) hlt)
  | executed hp => exact h.execute false hp
  | completed hp => exact h.complete hp
  | finished => exact h.finishCommand
  | reinitialized d rate hd hrate =>
    obtain ⟨-, -, hlaps, hbaud⟩ := h.engine
    refine h.withEngine List.length_replicate List.length_replicate hlaps ?_
    rcases hrate with rfl | rfl
    · exact hd
    · exact hbaud

theorem Inv.runTick {tick : Tick} {t : State} (h : Inv s) (hrun : runTick tick s = .next t) : Inv t := by
  cases tick with
  | core req =>
    cases req with
    | none =>
      cases hrun
      exact h.corePhases
    | some w =>
      obtain ⟨st, p, u, heff, hexec⟩ := exec_request (Machine.corePhases s) (decodeReq_format w)
      obtain rfl : respond st p u = t := Host.Outcome.next.inj (hexec.symm.trans hrun)
      have hu : Inv u := heff.inv h.corePhases
      exact hu
  | rx byte =>
    cases byte with
    | none =>
      cases hrun
      exact h.rxPhases
    | some b =>
      obtain rfl := Host.Outcome.next.inj hrun
      exact h.rxPhases.pushRx b
  | tx done =>
    obtain ⟨u, hnext, heff⟩ := runTick_tx done s
    obtain rfl : u = t := Host.Outcome.next.inj (hnext.symm.trans hrun)
    exact heff.inv h.txPhases

end

end Sys2Proof.Machine

open Sys2Proof.Machine

/-- Settles O13: every copy of a reset pointer lags by 0, every storage is empty, and no history entry is stored. -/
theorem resetSatisfiesTheInvariant : Obligations.ResetSatisfiesTheInvariant := by
  intro c hc
  exact ⟨inv_resetWith hc, fun k hk => absurd (List.mem_range.1 hk) (Nat.not_lt_zero k)⟩

/-- Settles O14: by the kind of the tick, whose phases, pushes, pops and request effects each keep the invariant. -/
theorem everyStepKeepsTheInvariant : Obligations.EveryStepKeepsTheInvariant := by
  intro s t hinv hstep
  obtain ⟨env, draws, hfetch⟩ := exists_fetch s
  have hfetched : Inv (fetch s).2 := hfetch ▸ hinv
  exact hfetched.runTick hstep

end

section
/-! What the request decoder reads (30_encoding.md R110 to R114): the fields of an encoded word, the row of each op, and
that every word is a well-formed request. -/

namespace Sys2Proof.Machine

/-! ## The fields of an encoded request -/

section
open BitVec
variable (op : BitVec 4) (a d : Byte)

@[simp] theorem reqOp_encodeReq : reqOp (encodeReq op a d) = op :=
  calc reqOp (encodeReq op a d)
    _ = (op ++ (0 : BitVec 4) ++ a ++ (0 : BitVec 8)).extractLsb' 20 4 := extractLsb'_append_eq_of_le (by decide)
    _ = (op ++ (0 : BitVec 4) ++ a).extractLsb' 12 4 := extractLsb'_append_eq_of_le (by decide)
    _ = (op ++ (0 : BitVec 4)).extractLsb' 4 4 := extractLsb'_append_eq_of_le (by decide)
    _ = op := extractLsb'_append_eq_left

@[simp] theorem reqA_encodeReq : reqA (encodeReq op a d) = a :=
  calc reqA (encodeReq op a d)
    _ = (op ++ (0 : BitVec 4) ++ a ++ (0 : BitVec 8)).extractLsb' 8 8 := extractLsb'_append_eq_of_le (by decide)
    _ = a := (extractLsb'_append_eq_of_le (by decide)).trans extractLsb'_append_eq_right

@[simp] theorem reqD_encodeReq : reqD (encodeReq op a d) = d := extractLsb'_append_eq_right

/-- The encoder leaves both reserved fields zero. -/
@[simp] theorem reservedSet_encodeReq : reservedSet (encodeReq op a d) = false := by
  have hhigh : (encodeReq op a d).extractLsb' 24 4 = 0 :=
    (extractLsb'_append_eq_of_le (by decide)).trans <| (extractLsb'_append_eq_of_le (by decide)).trans <|
      (extractLsb'_append_eq_of_le (by decide)).trans extractLsb'_append_eq_right
  have hlow : (encodeReq op a d).extractLsb' 8 8 = 0 :=
    (extractLsb'_append_eq_of_le (by decide)).trans extractLsb'_append_eq_right
  rw [reservedSet, hhigh, hlow]
  rfl

end

/-! ## The row of each op -/

theorem decodeReq_of_reserved {w : Word} (h : reservedSet w = true) : decodeReq w = .illegal w := if_pos h

theorem decodeReq_of_op_fifteen {w : Word} (h : reqOp w = 0xF) : decodeReq w = .illegal w := by
  simp [decodeReq, h]

/-- The reserved-bit check, as the spec states it (30_encoding.md R111). -/
theorem reservedSet_iff {w : Word} : reservedSet w = true ↔ w.extractLsb' 24 4 ≠ 0 ∨ w.extractLsb' 8 8 ≠ 0 := by
  simp [reservedSet]

section
variable (a d : Byte)

theorem decodeReq_nop : decodeReq (encodeReq 0x0 a d) = .nop := by simp [decodeReq]
theorem decodeReq_rxPop : decodeReq (encodeReq 0x1 a d) = .rxPop := by simp [decodeReq]
theorem decodeReq_txSend : decodeReq (encodeReq 0x2 a d) = .txSend d := by simp [decodeReq]
theorem decodeReq_leFeed : decodeReq (encodeReq 0x3 a d) = .leFeed d := by simp [decodeReq]
theorem decodeReq_poll : decodeReq (encodeReq 0x4 a d) = .poll := by simp [decodeReq]
theorem decodeReq_lineWrClr : decodeReq (encodeReq 0x5 0 d) = .lineWrClr := by simp [decodeReq]
theorem decodeReq_lineWrPut {a : Byte} (ha : a ≠ 0) : decodeReq (encodeReq 0x5 a d) = .lineWrPut a d := by
  simp only [decodeReq, reservedSet_encodeReq, reqOp_encodeReq, reqA_encodeReq, reqD_encodeReq, if_neg ha]
  rfl
theorem decodeReq_execLine : decodeReq (encodeReq 0x6 a d) = .execLine := by simp [decodeReq]
theorem decodeReq_tab : decodeReq (encodeReq 0x7 a d) = .tab := by simp [decodeReq]
theorem decodeReq_lineRd : decodeReq (encodeReq 0x8 a d) = .lineRd d := by simp [decodeReq]
theorem decodeReq_tokRd : decodeReq (encodeReq 0x9 a d) = .tokRd d := by simp [decodeReq]
theorem decodeReq_cmdStat : decodeReq (encodeReq 0xA a d) = .cmdStat := by simp [decodeReq]
theorem decodeReq_cmdDone : decodeReq (encodeReq 0xB a d) = .cmdDone := by simp [decodeReq]
theorem decodeReq_status : decodeReq (encodeReq 0xC a d) = .status a := by simp [decodeReq]
theorem decodeReq_histRd : decodeReq (encodeReq 0xD a d) = .histRd a d := by simp [decodeReq]
theorem decodeReq_reconf : decodeReq (encodeReq 0xE a d) = .reconf d := by simp [decodeReq]

end

theorem decodeReq_of_illegal_wf {w : Word} (h : (Instr.illegal w).wf = true) : decodeReq w = .illegal w := by
  rcases Bool.or_eq_true_iff.1 h with hres | hop
  · exact decodeReq_of_reserved hres
  · exact decodeReq_of_op_fifteen (eq_of_beq hop)

/-- Every request word is a well-formed row: what no op takes is ILLEGAL, by a reserved bit or by op 0xF. -/
theorem decodeReq_wf (w : Word) : (decodeReq w).wf = true := by
  by_cases hres : reservedSet w = true
  · rw [decodeReq_of_reserved hres, Instr.wf, hres, Bool.true_or]
  have hillegal : (Instr.illegal w).wf = (reqOp w == 0xF) := by
    rw [Instr.wf, Bool.eq_false_of_not_eq_true hres, Bool.false_or, reqOp]
  have hline : (if reqA w = 0 then Instr.lineWrClr.wf else (Instr.lineWrPut (reqA w) (reqD w)).wf) = true := by
    split
    · rfl
    · next ha => exact bne_iff_ne.2 ha
  simp only [decodeReq, if_neg hres, apply_ite Instr.wf, hillegal, hline]
  simp only [Instr.wf]
  generalize reqOp w = op
  revert op
  decide

/-! ## What ILLEGAL and a LINE_WR out of range do -/

theorem exec_illegal (w : Word) (s : State) : exec (.illegal w) s = .next (answer 0x40000000 s) := rfl

/-- A sub-operation of 2 or more answers RANGE whatever its byte (43_dispatch.md R321). -/
theorem exec_lineWrPut_range {a : Byte} (ha : 2 ≤ a.toNat) (d : Byte) (s : State) :
    exec (.lineWrPut a d) s = .next (respond .range (zext28 (byteField s.dp.dlen)) s) := if_pos ha

end Sys2Proof.Machine

open Sys2Proof Sys2Proof.Machine

/-- Settles O5: the reserved bits decide alone, each row of the op reads only the fields it needs, and LINE_WR answers
RANGE before it looks at d. -/
theorem unneededFieldsAreIgnored : Obligations.UnneededFieldsAreIgnored := by
  unfold Obligations.UnneededFieldsAreIgnored
  refine ⟨fun w hw => ?_, fun op a d a' d' => ⟨fun hop => ?_, fun hop => ?_, ?_, ?_, ?_⟩⟩
  · have hdec : decodeReq w = .illegal w := decodeReq_of_reserved (reservedSet_iff.2 hw)
    exact ⟨hdec, fun s => hdec ▸ exec_illegal w s⟩
  · simp only [List.mem_cons, List.not_mem_nil, or_false] at hop
    rcases hop with rfl | rfl | rfl | rfl | rfl | rfl | rfl
    · rw [decodeReq_nop, decodeReq_nop]
    · rw [decodeReq_rxPop, decodeReq_rxPop]
    · rw [decodeReq_poll, decodeReq_poll]
    · rw [decodeReq_execLine, decodeReq_execLine]
    · rw [decodeReq_tab, decodeReq_tab]
    · rw [decodeReq_cmdStat, decodeReq_cmdStat]
    · rw [decodeReq_cmdDone, decodeReq_cmdDone]
  · simp only [List.mem_cons, List.not_mem_nil, or_false] at hop
    rcases hop with rfl | rfl | rfl | rfl | rfl
    · rw [decodeReq_txSend, decodeReq_txSend]
    · rw [decodeReq_leFeed, decodeReq_leFeed]
    · rw [decodeReq_lineRd, decodeReq_lineRd]
    · rw [decodeReq_tokRd, decodeReq_tokRd]
    · rw [decodeReq_reconf, decodeReq_reconf]
  · rintro rfl
    rw [decodeReq_status, decodeReq_status]
  · rintro rfl
    rw [decodeReq_lineWrClr, decodeReq_lineWrClr]
  · rintro rfl ha s
    have hne : a ≠ 0 := by
      rintro rfl
      exact absurd ha (by decide)
    rw [decodeReq_lineWrPut d hne, decodeReq_lineWrPut d' hne, exec_lineWrPut_range ha, exec_lineWrPut_range ha]

end

section
/-! What the line editor's decoder reads (30_encoding.md R125, R126): the row of each escape state and byte, and that
every word is a well-formed row. -/

namespace Sys2Proof.Machine

/-! ## The fields and the byte sets -/

@[simp] theorem leEscOf_append (e : BitVec 2) (b : Byte) : leEscOf (e ++ b) = e := BitVec.extractLsb'_append_eq_left

@[simp] theorem leByteOf_append (e : BitVec 2) (b : Byte) : leByteOf (e ++ b) = b := BitVec.extractLsb'_append_eq_right

/-- A line-editor word is its two fields. -/
theorem leEscOf_append_leByteOf (L : BitVec 10) : leEscOf L ++ leByteOf L = L :=
  BitVec.extractLsb'_append_extractLsb' (w := 2) (len := 8)

/-- Every action's row is a line-editor row. -/
theorem toInstr_format (act : LeAct) (b : Byte) : (act.toInstr b).format = .le10 := by cases act <;> rfl

theorem printable_iff {b : Byte} : printable b = true ↔ 0x20 ≤ b.toNat ∧ b.toNat ≤ 0x7E := by
  simp [printable]

theorem leIgnore_wf_iff {b : Byte} : (Instr.leIgnore b).wf = true
    ↔ ¬ printable b = true ∧ b ≠ 0x08 ∧ b ≠ 0x0D ∧ b ≠ 0x1B ∧ b ≠ 0x7F := by
  simp only [Instr.wf, Bool.and_eq_true, bne_iff_ne, Bool.not_eq_true', Bool.not_eq_true, and_assoc]

theorem leBackspace_wf_iff {b : Byte} : (Instr.leBackspace b).wf = true ↔ b = 0x7F ∨ b = 0x08 := by
  simp only [Instr.wf, Bool.or_eq_true, beq_iff_eq, or_comm]

theorem leCsiDrop_wf_iff {b : Byte} : (Instr.leCsiDrop b).wf = true ↔ ¬ (0x41 ≤ b.toNat ∧ b.toNat ≤ 0x44) := by
  simp only [Instr.wf, Bool.not_eq_true', ← Bool.not_eq_true, Bool.and_eq_true, decide_eq_true_eq]

/-- The bytes that IGNORE takes, as the ranges between its neighbours (30_encoding.md R125). -/
theorem leIgnore_wf_of_range {b : Byte} (h : b.toNat ≤ 0x07 ∨ (0x09 ≤ b.toNat ∧ b.toNat ≤ 0x0C)
    ∨ (0x0E ≤ b.toNat ∧ b.toNat ≤ 0x1A) ∨ (0x1C ≤ b.toNat ∧ b.toNat ≤ 0x1F) ∨ 0x80 ≤ b.toNat) :
    (Instr.leIgnore b).wf = true := by
  rw [leIgnore_wf_iff, printable_iff]
  bv_omega

theorem ne_of_printable {b c : Byte} (hb : printable b = true) (hc : printable c = false) : b ≠ c := by
  rintro rfl
  rw [hb] at hc
  cases hc

/-! ## The row of each escape state and byte -/

section
variable (full : Bool)

theorem decodeLe_escEnter : decodeLe full ((0 : BitVec 2) ++ (0x1B : Byte)) = .leEscEnter := rfl
theorem decodeLe_enter : decodeLe full ((0 : BitVec 2) ++ (0x0D : Byte)) = .leEnter := rfl

theorem decodeLe_backspace {b : Byte} (h : b = 0x7F ∨ b = 0x08) :
    decodeLe full ((0 : BitVec 2) ++ b) = .leBackspace b := by
  rcases h with rfl | rfl <;> rfl

theorem decodeLe_printable {b : Byte} (h : printable b = true) :
    decodeLe full ((0 : BitVec 2) ++ b) = if full then .leOverflow b else .leInsert b := by
  have hESC : b ≠ 0x1B := ne_of_printable h rfl
  have hCR : b ≠ 0x0D := ne_of_printable h rfl
  have hBS : ¬ (b = 0x7F ∨ b = 0x08) := not_or.2 ⟨ne_of_printable h rfl, ne_of_printable h rfl⟩
  simp only [decodeLe, decodeLeAct, leEscOf_append, leByteOf_append, if_neg hESC, if_neg hCR, if_neg hBS, if_pos h]
  cases full <;> rfl

theorem decodeLe_ignore {b : Byte} (h : (Instr.leIgnore b).wf = true) :
    decodeLe full ((0 : BitVec 2) ++ b) = .leIgnore b := by
  obtain ⟨hprint, h08, hCR, hESC, h7F⟩ := leIgnore_wf_iff.1 h
  have hBS : ¬ (b = 0x7F ∨ b = 0x08) := not_or.2 ⟨h7F, h08⟩
  simp only [decodeLe, decodeLeAct, leEscOf_append, leByteOf_append, if_neg hESC, if_neg hCR, if_neg hBS,
    if_neg hprint]
  rfl

theorem decodeLe_csiEnter : decodeLe full ((1 : BitVec 2) ++ (0x5B : Byte)) = .leCsiEnter := rfl

theorem decodeLe_escDrop {b : Byte} (h : b ≠ 0x5B) : decodeLe full ((1 : BitVec 2) ++ b) = .leEscDrop b := by
  simp only [decodeLe, decodeLeAct, leEscOf_append, leByteOf_append, if_neg h]
  rfl

theorem decodeLe_histPrev : decodeLe full ((2 : BitVec 2) ++ (0x41 : Byte)) = .leHistPrev := rfl
theorem decodeLe_histNext : decodeLe full ((2 : BitVec 2) ++ (0x42 : Byte)) = .leHistNext := rfl
theorem decodeLe_curRight : decodeLe full ((2 : BitVec 2) ++ (0x43 : Byte)) = .leCurRight := rfl
theorem decodeLe_curLeft : decodeLe full ((2 : BitVec 2) ++ (0x44 : Byte)) = .leCurLeft := rfl

theorem decodeLe_csiDrop {b : Byte} (h : ¬ (0x41 ≤ b.toNat ∧ b.toNat ≤ 0x44)) :
    decodeLe full ((2 : BitVec 2) ++ b) = .leCsiDrop b := by
  have hne : ∀ c : Byte, 0x41 ≤ c.toNat → c.toNat ≤ 0x44 → b ≠ c := by
    rintro c hlo hhi rfl
    exact h ⟨hlo, hhi⟩
  simp only [decodeLe, decodeLeAct, leEscOf_append, leByteOf_append, if_neg (hne 0x41 (by decide) (by decide)),
    if_neg (hne 0x42 (by decide) (by decide)), if_neg (hne 0x43 (by decide) (by decide)),
    if_neg (hne 0x44 (by decide) (by decide))]
  rfl

theorem decodeLeAct_esc_three (b : Byte) : decodeLeAct full ((3 : BitVec 2) ++ b) = .illegalEscState := by
  simp [decodeLeAct]

theorem decodeLe_illegalEscState (b : Byte) :
    decodeLe full ((3 : BitVec 2) ++ b) = .leIllegalEscState b := by
  rw [decodeLe, decodeLeAct_esc_three, leByteOf_append, LeAct.toInstr]

end

/-! ## Every word is a row's -/

theorem decodeLe_normal_wf (full : Bool) (b : Byte) : (decodeLe full ((0 : BitVec 2) ++ b)).wf = true := by
  by_cases hprint : printable b = true
  · rw [decodeLe_printable full hprint]
    cases full <;> exact hprint
  by_cases hBS : b = 0x7F ∨ b = 0x08
  · rw [decodeLe_backspace full hBS]
    rcases hBS with rfl | rfl <;> rfl
  by_cases hCR : b = 0x0D
  · rw [hCR, decodeLe_enter, Instr.wf]
  by_cases hESC : b = 0x1B
  · rw [hESC, decodeLe_escEnter, Instr.wf]
  · have hwf := leIgnore_wf_iff.2 ⟨hprint, fun h => hBS (.inr h), hCR, hESC, fun h => hBS (.inl h)⟩
    rw [decodeLe_ignore full hwf, hwf]

theorem decodeLe_escape_wf (full : Bool) (b : Byte) : (decodeLe full ((1 : BitVec 2) ++ b)).wf = true := by
  by_cases hCSI : b = 0x5B
  · rw [hCSI, decodeLe_csiEnter, Instr.wf]
  · rw [decodeLe_escDrop full hCSI, Instr.wf, bne_iff_ne.2 hCSI]

theorem decodeLe_bracket_wf (full : Bool) (b : Byte) : (decodeLe full ((2 : BitVec 2) ++ b)).wf = true := by
  by_cases hkey : 0x41 ≤ b.toNat ∧ b.toNat ≤ 0x44
  · have hcases : b = 0x41 ∨ b = 0x42 ∨ b = 0x43 ∨ b = 0x44 := by bv_omega
    rcases hcases with rfl | rfl | rfl | rfl <;> rfl
  · rw [decodeLe_csiDrop full hkey]
    exact leCsiDrop_wf_iff.2 hkey

theorem decodeLe_wf (full : Bool) (L : BitVec 10) : (decodeLe full L).wf = true := by
  rw [← leEscOf_append_leByteOf L]
  have hcases : ∀ e : BitVec 2, e = 0 ∨ e = 1 ∨ e = 2 ∨ e = 3 := by decide
  rcases hcases (leEscOf L) with he | he | he | he <;> rw [he]
  · exact decodeLe_normal_wf full _
  · exact decodeLe_escape_wf full _
  · exact decodeLe_bracket_wf full _
  · rw [decodeLe_illegalEscState, Instr.wf]

theorem decodeLe_format (full : Bool) (L : BitVec 10) : (decodeLe full L).format = .le10 :=
  toInstr_format _ _

end Sys2Proof.Machine

open Sys2Proof Sys2Proof.Machine

/-- Settles O6, one row of the table at a time. -/
theorem editorDecodeFollowsTheTable : Obligations.EditorDecodeFollowsTheTable := by
  unfold Obligations.EditorDecodeFollowsTheTable
  intro full b
  exact ⟨fun h => h ▸ decodeLe_escEnter full, fun h => h ▸ decodeLe_enter full, decodeLe_backspace full,
    fun hlo hhi => decodeLe_printable full (printable_iff.2 ⟨hlo, hhi⟩),
    fun hother => decodeLe_ignore full (leIgnore_wf_of_range hother),
    fun h => h ▸ decodeLe_csiEnter full, decodeLe_escDrop full,
    fun h => h ▸ decodeLe_histPrev full, fun h => h ▸ decodeLe_histNext full,
    fun h => h ▸ decodeLe_curRight full, fun h => h ▸ decodeLe_curLeft full,
    fun hother => decodeLe_csiDrop full (by omega)⟩

end

section
/-! The decoders of all formats on numbers (30_encoding.md R110, R125, R131), and that they undo the encoder. -/

namespace Sys2Proof.Machine

theorem decode_req32 (full : Bool) (w : Word) : decode .req32 full w.toNat = .instr (decodeReq w) := by
  simp [decode, Format.width, Nat.not_le.2 w.isLt]

theorem decode_le10 (full : Bool) (L : BitVec 10) : decode .le10 full L.toNat = .instr (decodeLe full L) := by
  simp [decode, Format.width, Nat.not_le.2 L.isLt]

theorem decode_rxPort (full : Bool) (p : BitVec 9) : decode .rxPort full p.toNat = decodeRx p := by
  simp [decode, Format.width, Nat.not_le.2 p.isLt]

theorem decodeRx_valid (b : Byte) : decodeRx ((1 : BitVec 1) ++ b) = .instr (.rxByte b) := by
  have hvalid : ((1 : BitVec 1) ++ b).getLsbD 8 = true := BitVec.getLsbD_append
  have hbyte : ((1 : BitVec 1) ++ b).extractLsb' 0 8 = b := BitVec.extractLsb'_append_eq_right
  rw [decodeRx, if_pos hvalid, hbyte]

theorem decode_encodeReq {full : Bool} {op : BitVec 4} {a d : Byte} {i : Instr} (h : decodeReq (encodeReq op a d) = i) :
    decode .req32 full (encodeReq op a d).toNat = .instr i := by
  rw [decode_req32, h]

theorem decode_encodeLe {full : Bool} {e : BitVec 2} {b : Byte} {i : Instr} (h : decodeLe full (e ++ b) = i) :
    decode .le10 full (encodeLe e b).toNat = .instr i := by
  rw [decode_le10, encodeLe, h]

/-- Decoding the encoded word is the identity on the well-formed instructions, row by row of the tables. -/
theorem decode_encode {i : Instr} (h : i.wf = true) : decode i.format i.needsFull (encode i) = .instr i := by
  cases i with
  | nop => exact decode_encodeReq (decodeReq_nop 0 0)
  | rxPop => exact decode_encodeReq (decodeReq_rxPop 0 0)
  | txSend d => exact decode_encodeReq (decodeReq_txSend 0 d)
  | leFeed d => exact decode_encodeReq (decodeReq_leFeed 0 d)
  | poll => exact decode_encodeReq (decodeReq_poll 0 0)
  | lineWrClr => exact decode_encodeReq (decodeReq_lineWrClr 0)
  | lineWrPut a d => exact decode_encodeReq (decodeReq_lineWrPut d (bne_iff_ne.1 h))
  | execLine => exact decode_encodeReq (decodeReq_execLine 0 0)
  | tab => exact decode_encodeReq (decodeReq_tab 0 0)
  | lineRd d => exact decode_encodeReq (decodeReq_lineRd 0 d)
  | tokRd d => exact decode_encodeReq (decodeReq_tokRd 0 d)
  | cmdStat => exact decode_encodeReq (decodeReq_cmdStat 0 0)
  | cmdDone => exact decode_encodeReq (decodeReq_cmdDone 0 0)
  | status a => exact decode_encodeReq (decodeReq_status a 0)
  | histRd a d => exact decode_encodeReq (decodeReq_histRd a d)
  | reconf d => exact decode_encodeReq (decodeReq_reconf 0 d)
  | illegal w => exact (decode_req32 false w).trans (congrArg _ (decodeReq_of_illegal_wf h))
  | leIgnore b => exact decode_encodeLe (decodeLe_ignore false h)
  | leEscEnter => exact decode_encodeLe (decodeLe_escEnter false)
  | leEnter => exact decode_encodeLe (decodeLe_enter false)
  | leBackspace b => exact decode_encodeLe (decodeLe_backspace false (leBackspace_wf_iff.1 h))
  | leInsert b => exact decode_encodeLe (decodeLe_printable false h)
  | leOverflow b => exact decode_encodeLe (decodeLe_printable true h)
  | leEscDrop b => exact decode_encodeLe (decodeLe_escDrop false (bne_iff_ne.1 h))
  | leCsiEnter => exact decode_encodeLe (decodeLe_csiEnter false)
  | leHistPrev => exact decode_encodeLe (decodeLe_histPrev false)
  | leHistNext => exact decode_encodeLe (decodeLe_histNext false)
  | leCurRight => exact decode_encodeLe (decodeLe_curRight false)
  | leCurLeft => exact decode_encodeLe (decodeLe_curLeft false)
  | leCsiDrop b => exact decode_encodeLe (decodeLe_csiDrop false (leCsiDrop_wf_iff.1 h))
  | leIllegalEscState b => exact decode_encodeLe (decodeLe_illegalEscState false b)
  | rxByte b => exact (decode_rxPort false _).trans (decodeRx_valid b)
  | txDone => rfl

end Sys2Proof.Machine

open Sys2Proof Sys2Proof.Machine

/-- Settles O2, by cases on the row: an encoded word's fields read back, and the row's op, or its escape state and byte,
select it again. -/
theorem decodeOfEncodeIsTheInstruction : Obligations.DecodeOfEncodeIsTheInstruction := by
  unfold Obligations.DecodeOfEncodeIsTheInstruction
  exact fun i => decode_encode

/-- Settles O3, by the op, and by the escape state and the byte. -/
theorem decodersYieldWellFormedRows : Obligations.DecodersYieldWellFormedRows := by
  unfold Obligations.DecodersYieldWellFormedRows
  exact ⟨fun w => ⟨decodeReq_wf w, decodeReq_format w⟩,
    fun full L => ⟨decodeLe_wf full L, decodeLe_format full L⟩⟩

/-- Settles O1: sixteen fixed words. -/
theorem specWordsDecodeToTheirRows : Obligations.SpecWordsDecodeToTheirRows := by
  unfold Obligations.SpecWordsDecodeToTheirRows
  decide

end

section
/-! The action codes (30_encoding.md R119), and what LE_FEED and POLL answer (42_line_editor.md R250, R251), escape
state 3 included (30_encoding.md R126). -/

namespace Sys2Proof.Machine

/-! ## The answer -/

theorem respond_eq_answer (st : Status) (p : BitVec 28) (s : State) :
    respond st p s = answer (responseWord st p) s := rfl

/-- The answer of LE_FEED and POLL, field by field (30_encoding.md R116, R118). -/
theorem responseWord_payloadAct (code : BitVec 4) (e : BitVec 2) (b : Byte) :
    responseWord .ok (payloadAct code e b)
      = (0 : BitVec 4) ++ code ++ (0 : BitVec 6) ++ e ++ (0 : BitVec 8) ++ b := by
  change (0 : BitVec 4) ++ (code ++ (0 : BitVec 6) ++ e ++ (0 : BitVec 8) ++ b) = _
  simp only [BitVec.append_assoc', BitVec.cast_eq]

/-- LE_FEED reports no byte. -/
theorem responseWord_payloadAct_zero (code : BitVec 4) (e : BitVec 2) :
    responseWord .ok (payloadAct code e 0) = (0 : BitVec 4) ++ code ++ (0 : BitVec 6) ++ e ++ (0 : BitVec 16) := by
  rw [responseWord_payloadAct]
  exact BitVec.append_assoc

theorem extractLsb'_responseWord_payloadAct (code : BitVec 4) (e : BitVec 2) (b : Byte) :
    (responseWord .ok (payloadAct code e b)).extractLsb' 24 4 = code :=
  calc (responseWord .ok (payloadAct code e b)).extractLsb' 24 4
    _ = (payloadAct code e b).extractLsb' 24 4 := BitVec.extractLsb'_append_eq_of_add_le (by decide)
    _ = (code ++ (0 : BitVec 6) ++ e ++ (0 : BitVec 8)).extractLsb' 16 4 :=
        BitVec.extractLsb'_append_eq_of_le (by decide)
    _ = (code ++ (0 : BitVec 6) ++ e).extractLsb' 8 4 := BitVec.extractLsb'_append_eq_of_le (by decide)
    _ = (code ++ (0 : BitVec 6)).extractLsb' 6 4 := BitVec.extractLsb'_append_eq_of_le (by decide)
    _ = code := BitVec.extractLsb'_append_eq_left

/-! ## The byte step's code -/

theorem actionCode_le {act : LeAct} {code : BitVec 4} (h : actionCode act = some code) : code.toNat ≤ 12 := by
  cases act <;> cases h <;> decide

/-- The free code of escape state 3 keeps the bound of R119. -/
theorem freeAction_toNat_le (n : Nat) : (BitVec.ofNat 4 (Config.freeAction n).val).toNat ≤ 12 :=
  (Nat.mod_le _ _).trans (Nat.lt_succ_iff.1 (Config.freeAction n).isLt)

theorem leStep_fst_le (b : Byte) (s : State) : (leStep b s).1.toNat ≤ 12 := by
  unfold leStep
  split
  · next code hcode => exact actionCode_le hcode
  · exact freeAction_toNat_le s.draws

/-! ## Escape state 3 -/

theorem raise_eq (x : Fault) (s : State) : raise x s = { s with g.fault := some (s.g.fault.getD x) } := by
  rw [raise]
  cases s.g.fault <;> rfl

theorem leActOf_esc_three {s : State} (h : s.le.esc = 3) (b : Byte) : leActOf b s = .illegalEscState := by
  rw [leActOf, h, decodeLeAct_esc_three]

/-- In escape state 3 the byte step raises the fault, draws its code, and does nothing else. -/
theorem leStep_esc_three {s : State} (h : s.le.esc = 3) (b : Byte) :
    leStep b s = (BitVec.ofNat 4 (Config.freeAction s.draws).val,
      { s with
        g.fault := some (s.g.fault.getD .illegalEscState)
        draws := s.draws + 1 }) := by
  simp only [leStep, leActOf_esc_three h, actionCode, actEffect, raise_eq]

/-! ## LE_FEED and POLL -/

theorem exec_leFeed_accepted {s : State} (hp : s.dp.pending = false) (d : Byte) :
    exec (.leFeed d) s
      = .next (answer (responseWord .ok (payloadAct (leStep d s).1 (leStep d s).2.le.esc 0)) (leStep d s).2) :=
  if_neg (by rw [hp]; decide)

theorem exec_poll_popped {s u : State} {v : Byte} (hp : s.dp.pending = false) (hpop : popRx s = (some v, u)) :
    exec .poll s
      = .next (answer (responseWord .ok (payloadAct (leStep v u).1 (leStep v u).2.le.esc v)) (leStep v u).2) := by
  simp [exec, execPoll, hp, hpop, respond_eq_answer]

theorem popRx_le {s u : State} {byte : Option Byte} (hpop : popRx s = (byte, u)) : u.le = s.le := by
  rw [popRx_eq] at hpop
  obtain rfl := congrArg Prod.snd hpop
  rfl

/-- With a byte in Core's view a pop returns one. -/
theorem exists_popRx_of_leadR_ne_zero {s : State} (h : s.rx.leadR s.cfg.rx ≠ 0) : ∃ v u, popRx s = (some v, u) := by
  rcases s.rx.pop_result s.cfg.rx (Config.freeByte s.draws) with ⟨hzero, -⟩ | ⟨-, v, hbyte, -⟩
  · exact absurd hzero h
  · exact ⟨v, _, Prod.ext hbyte rfl⟩

end Sys2Proof.Machine

open Sys2Proof Sys2Proof.Machine

/-- Settles O47: the byte step in escape state 3, run by LE_FEED and by POLL after its pop. -/
theorem escapeStateThreeRecordsTheFault : Obligations.EscapeStateThreeRecordsTheFault := by
  unfold Obligations.EscapeStateThreeRecordsTheFault
  intro s b full
  refine ⟨decodeLe_illegalEscState full b, congrArg _ (raise_eq .illegalEscState s), fun hp hesc => ?_,
    fun v u hp hesc hpop => ?_⟩
  · refine ⟨_, freeAction_toNat_le s.draws, ?_⟩
    rw [exec_leFeed_accepted hp, responseWord_payloadAct_zero, leStep_esc_three hesc, hesc]
  · have hescU : u.le.esc = 3 := (congrArg LineEditor.esc (popRx_le hpop)).trans hesc
    refine ⟨_, freeAction_toNat_le u.draws, ?_⟩
    rw [exec_poll_popped hp hpop, responseWord_payloadAct, leStep_esc_three hescU, hescU]

/-- Settles O60: the codes are the table's, and both requests report the byte step's code. -/
theorem actionCodesFollowTheTable : Obligations.ActionCodesFollowTheTable := by
  unfold Obligations.ActionCodesFollowTheTable
  refine ⟨by decide, fun s hp => ⟨fun d => ?_, fun hview => ?_⟩⟩
  · refine ⟨_, _, exec_leFeed_accepted hp d, ?_⟩
    rw [extractLsb'_responseWord_payloadAct]
    exact leStep_fst_le d s
  · obtain ⟨v, u, hpop⟩ := exists_popRx_of_leadR_ne_zero hview
    refine ⟨_, _, exec_poll_popped hp hpop, ?_⟩
    rw [extractLsb'_responseWord_payloadAct]
    exact leStep_fst_le v u

end

section
/-! Phases 1 and 2 of a tick (40_fifo_cdc.md R160, R161): the logic that follows them leaves the copies they write
alone, and a publisher reaches its pointer one gray step a tick. -/

namespace Sys2Proof.Machine

/-! ## What Core's logic leaves alone -/

/-- `F` reads nothing that a Core request other than RECONF writes. -/
structure OutsideRequests {α : Type} (F : State → α) : Prop where
  emitByte : ∀ b s, F (emitByte b s) = F s
  popRx : ∀ s, F (popRx s).2 = F s
  update : ∀ s le dp g rsp draws, F { s with le := le, dp := dp, g := g, rsp := rsp, draws := draws } = F s

namespace OutsideRequests
variable {α : Type} {F : State → α}

theorem emit (hF : OutsideRequests F) (l : List Byte) (s : State) : F (emit l s) = F s :=
  emit_induct (P := fun t => F t = F s) (fun b t ht => (hF.emitByte b t).trans ht) l s rfl

theorem popped (hF : OutsideRequests F) {s u : State} {byte : Option Byte} (hpop : Machine.popRx s = (byte, u)) :
    F u = F s := by
  obtain rfl : (Machine.popRx s).2 = u := congrArg Prod.snd hpop
  exact hF.popRx s

theorem execute (hF : OutsideRequests F) (fromLe : Bool) (s : State) : F (execute fromLe s).2 = F s := by
  have htok : F (tokenize s) = F s := hF.update s s.le _ s.g s.rsp s.draws
  rcases execute_snd_cases s fromLe with h | h | ⟨i, -, -, h⟩ <;> rw [h]
  · exact htok
  · exact (hF.emit _ _).trans htok
  · exact hF.update s s.le _ _ s.rsp s.draws

theorem complete (hF : OutsideRequests F) (s : State) : F (complete s).2 = F s := by
  have hline : ∀ l, F (setDispatchLine l s) = F s := fun l => hF.update s s.le _ s.g s.rsp s.draws
  rcases complete_snd_cases s with ⟨l, h⟩ | ⟨i, -, h⟩ | ⟨i, -, h⟩ <;> rw [h]
  · exact hF.emit _ _
  · exact hline _
  · exact (hF.execute _ _).trans (hline _)

theorem commitLine (hF : OutsideRequests F) (s : State) : F (commitLine s) = F s := by
  unfold Machine.commitLine
  split
  · exact hF.update s _ s.dp s.g s.rsp s.draws
  · rfl

theorem actEnter (hF : OutsideRequests F) (s : State) : F (actEnter s) = F s := by
  have hhand : ∀ t, F (handLine t) = F t := fun t => hF.update t _ _ t.g t.rsp t.draws
  have hline : F (handLine (Machine.commitLine (Machine.emit s.cfg.newline s))) = F s :=
    (hhand _).trans ((hF.commitLine _).trans (hF.emit _ _))
  unfold Machine.actEnter promptUnlessDispatched
  dsimp only
  split
  · exact (hF.execute _ _).trans hline
  · exact (hF.emit _ _).trans ((hF.execute _ _).trans hline)

theorem actEffect (hF : OutsideRequests F) (b : Byte) (s : State) (act : LeAct) : F (actEffect b s act) = F s := by
  rcases actEffect_cases s b act with h | h | ⟨l, le, -, h⟩ <;> rw [h]
  · exact hF.actEnter s
  · exact hF.update s s.le s.dp _ s.rsp s.draws
  · exact (hF.emit _ _).trans (hF.update s le s.dp s.g s.rsp s.draws)

theorem leStep (hF : OutsideRequests F) (b : Byte) (s : State) : F (leStep b s).2 = F s := by
  obtain ⟨n, h⟩ := leStep_snd s b
  rw [h]
  exact (hF.update _ _ _ _ _ n).trans (hF.actEffect b s _)

theorem finishCommand (hF : OutsideRequests F) (s : State) : F (finishCommand s) = F s := by
  have hdone := hF.update s s.le { s.dp with pending := false } s.g s.rsp s.draws
  unfold Machine.finishCommand
  dsimp only
  split
  · exact (hF.emit _ _).trans hdone
  · exact hdone

/-- A request leaves `F` as it was, unless it is a RECONF with a valid rate code, which quiesces the engine. -/
theorem request (hF : OutsideRequests F) {s u : State} {i : Instr} (h : RequestEffect s i u) :
    F u = F s ∨ ∃ d rate, i = .reconf d ∧ d ∉ s.cfg.baudRefused ∧ F u = F { quiesce s with baud := rate } := by
  cases h with
  | unchanged => exact .inl rfl
  | popped hpop => exact .inl (hF.popped hpop)
  | polledNone _ hpop => exact .inl (hF.popped hpop)
  | sent d => exact .inl (hF.emitByte d s)
  | fed d => exact .inl (hF.leStep d s)
  | polled _ hpop => exact .inl ((hF.leStep _ _).trans (hF.popped hpop))
  | lineCleared => exact .inl (hF.update s s.le _ s.g s.rsp s.draws)
  | lineExtended => exact .inl (hF.update s s.le _ s.g s.rsp s.draws)
  | executed => exact .inl (hF.execute false s)
  | completed => exact .inl (hF.complete s)
  | finished => exact .inl (hF.finishCommand s)
  | reinitialized d rate hd =>
    have hdraws := hF.update { quiesce s with baud := rate } s.le s.dp s.g s.rsp (s.draws + 1)
    exact .inr ⟨d, rate, rfl, hd, hdraws⟩

/-- The same of a Core tick's logic, which runs after the phases and answers. -/
theorem coreTick (hF : OutsideRequests F) {req : Option Word} {s t : State} (h : runTick (.core req) s = .next t) :
    F t = F (corePhases s) ∨ ∃ w d rate, req = some w ∧ decodeReq w = .reconf d ∧ d ∉ s.cfg.baudRefused
      ∧ F t = F { quiesce (corePhases s) with baud := rate } := by
  cases req with
  | none =>
    cases h
    exact .inl rfl
  | some w =>
    obtain ⟨st, p, u, hu, hexec⟩ := exec_request (corePhases s) (decodeReq_format w)
    obtain rfl : respond st p u = t := Host.Outcome.next.inj (hexec.symm.trans h)
    have hresp : F (respond st p u) = F u := hF.update u u.le u.dp _ _ u.draws
    rw [hresp]
    exact (hF.request hu).imp_right fun ⟨d, rate, hd, hvalid, heq⟩ => ⟨w, d, rate, rfl, hd, hvalid, heq⟩

end OutsideRequests

/-! ## The copies that the phases write -/

/-- The copies that Core's phases write, but for `TE.busy_sync`, which RECONF clears. -/
def coreCopies (s : State) : List Nat × List Nat × List Bool × Nat × Nat :=
  (s.rx.wsync, s.tx.rsync, s.lapSync, s.rx.rpub, s.tx.wpub)

/-- The copies that RxDom's phases write. -/
def rxDomCopies (s : State) : List Nat × Nat := (s.rx.rsync, s.rx.wpub)

/-- The copies that TxDom's phases write. -/
def txDomCopies (s : State) : List Nat × List Bool × Nat := (s.tx.wsync, s.te.enSync, s.tx.rpub)

theorem outsideRequests_coreCopies : OutsideRequests coreCopies where
  emitByte b s := by
    rw [emitByte_eq]
    rfl
  popRx s := by
    rw [popRx_eq]
    simp only [coreCopies]
    rw [Fifo.pop_touches]
  update _ _ _ _ _ _ := rfl

theorem outsideRequests_busySync : OutsideRequests fun s => s.te.busySync where
  emitByte b s := by rw [emitByte_eq]
  popRx s := by rw [popRx_eq]
  update _ _ _ _ _ _ := rfl

/-- No request touches a copy that Core's phases have just written. -/
theorem coreCopies_runTick {req : Option Word} {s t : State} (h : runTick (.core req) s = .next t) :
    coreCopies t = coreCopies (corePhases s) := by
  rcases outsideRequests_coreCopies.coreTick h with heq | ⟨_, _, _, -, -, -, heq⟩ <;> exact heq

/-- Only a RECONF with a valid rate code touches `TE.busy_sync` after the phases. -/
theorem busySync_runTick {req : Option Word} {s t : State} (h : runTick (.core req) s = .next t)
    (hreq : ∀ w d, req = some w → decodeReq w = .reconf d → d ∈ s.cfg.baudRefused) :
    t.te.busySync = (corePhases s).te.busySync := by
  rcases outsideRequests_busySync.coreTick h with heq | ⟨w, d, -, hw, hd, hvalid, -⟩
  · exact heq
  · exact absurd (hreq w d hw hd) hvalid

/-- RxDom's logic pushes at most one byte. -/
theorem rxDomCopies_runTick {byte : Option Byte} {s t : State} (h : runTick (.rx byte) s = .next t) :
    rxDomCopies t = rxDomCopies (rxPhases s) := by
  cases byte with
  | none =>
    cases h
    rfl
  | some b =>
    obtain rfl := Host.Outcome.next.inj h
    rw [pushRx_eq]
    rfl

theorem txDomCopies_popTx (s : State) : txDomCopies (popTx s).2 = txDomCopies s := by
  rw [popTx_eq]
  simp only [txDomCopies]
  rw [Fifo.pop_touches]

/-- TxDom's logic pops at most one byte and starts it. -/
theorem txDomCopies_runTick {done : Bool} {s t : State} (h : runTick (.tx done) s = .next t) :
    txDomCopies t = txDomCopies (txPhases s) := by
  obtain ⟨u, hrun, heff⟩ := runTick_tx done s
  obtain rfl : u = t := Host.Outcome.next.inj (hrun.symm.trans h)
  rcases heff with rfl | ⟨byte, v, hpop, hu⟩
  · rfl
  · obtain rfl : (popTx (txPhases s)).2 = v := congrArg Prod.snd hpop
    rcases hu with rfl | rfl | ⟨b, rfl⟩ <;> exact txDomCopies_popTx _

/-- A step's tick runs on the same copies and sources, whether offered or not. -/
theorem exists_runTick_of_step {s t : State} (h : step s = .next t) :
    ∃ env draws, runTick (nextTick s) { s with env := env, draws := draws } = .next t := by
  obtain ⟨env, draws, hfetch⟩ := exists_fetch s
  exact ⟨env, draws, by rw [← h, step_eq_runTick, hfetch]⟩

/-! ## The publisher -/

theorem subMod_add_mod {m p : Nat} (hp : p < m) (q : Nat) : (q + subMod p q m) % m = p := by
  have hsum : subMod p q m + q ≡ p [MOD m] := subMod_add_modEq (Nat.zero_lt_of_lt hp) p q
  rw [Nat.add_comm, hsum, Nat.mod_eq_of_lt hp]

/-- A copy on its way stands at its pointer only when all the codes between are done. -/
theorem add_mod_eq_iff {m p q n : Nat} (hp : p < m) (hn : n ≤ subMod p q m) :
    (q + n) % m = p ↔ n = subMod p q m := by
  refine ⟨fun h => ?_, fun h => h ▸ subMod_add_mod hp q⟩
  have hlt : n < m := hn.trans_lt (subMod_lt (Nat.zero_lt_of_lt hp) p q)
  refine (subMod_eq_of_add_modEq hlt ?_).symm
  rw [Nat.add_comm, Nat.ModEq, h, Nat.mod_eq_of_lt hp]

theorem publish_gray {c : FifoCfg} {q : Nat} (hq : q < c.modulus) (p : Nat) :
    publish c p (gray q) = if q = p then gray q else gray ((q + 1) % c.modulus) := by
  have hbin : bin c.pw (gray q) = q := bin_gray hq
  rw [publish, hbin]

/-- `n` publications move the copy `n` codes on, but not past its pointer. -/
theorem publish_iterate {c : FifoCfg} {p q : Nat} (hp : p < c.modulus) (hq : q < c.modulus) (n : Nat) :
    (publish c p)^[n] (gray q) = gray ((q + min n (subMod p q c.modulus)) % c.modulus) := by
  induction n with
  | zero => rw [Function.iterate_zero_apply, Nat.zero_min, Nat.add_zero, Nat.mod_eq_of_lt hq]
  | succ n ih =>
    rw [Function.iterate_succ_apply', ih, publish_gray (Nat.mod_lt _ (modulus_pos c))]
    simp only [add_mod_eq_iff hp (Nat.min_le_right _ _)]
    by_cases hdone : subMod p q c.modulus ≤ n
    · rw [if_pos (Nat.min_eq_right hdone), Nat.min_eq_right hdone, Nat.min_eq_right (Nat.le_succ_of_le hdone)]
    · have hlt : n < subMod p q c.modulus := Nat.not_le.1 hdone
      rw [Nat.min_eq_left hlt.le, if_neg hlt.ne, Nat.min_eq_left (Nat.succ_le_of_lt hlt), Nat.mod_add_mod, Nat.add_assoc]

/-- A publication changes at most one bit. -/
theorem publish_one_bit {c : FifoCfg} {q : Nat} (hw : 1 ≤ c.pw) (hq : q < c.modulus) (p : Nat) :
    publish c p (gray q) = gray q ∨ ∃ i < c.pw, publish c p (gray q) = gray q ^^^ 2 ^ i := by
  rw [publish_gray hq]
  split
  · exact .inl rfl
  · exact .inr (gray_succ_mod hw hq)

end Sys2Proof.Machine

open Sys2Proof Sys2Proof.Machine

/-- Settles O8: the phases shift, and after them each domain's logic leaves its synchronizers alone. -/
theorem synchronizersShiftInEveryTick : Obligations.SynchronizersShiftInEveryTick := by
  intro s t hstep
  obtain ⟨env, draws, hrun⟩ := exists_runTick_of_step hstep
  cases htick : nextTick s with
  | core req =>
    rw [htick] at hrun
    have hcopies := coreCopies_runTick hrun
    simp only [coreCopies, Prod.mk.injEq] at hcopies
    obtain ⟨hwsync, hrsync, hlap, -, -⟩ := hcopies
    have hbusy := busySync_runTick hrun
    exact ⟨hwsync, hrsync, hlap, hbusy⟩
  | rx byte =>
    rw [htick] at hrun
    exact congrArg Prod.fst (rxDomCopies_runTick hrun)
  | tx done =>
    rw [htick] at hrun
    have hcopies := txDomCopies_runTick hrun
    simp only [txDomCopies, Prod.mk.injEq] at hcopies
    obtain ⟨hwsync, hen, -⟩ := hcopies
    exact ⟨hwsync, hen⟩

/-- Settles O18: the publisher's step by induction on the count of ticks, and every tick's logic leaves the copy its
phases published alone. -/
theorem publisherMovesOneCodeStep : Obligations.PublisherMovesOneCodeStep := by
  refine ⟨fun c p q hw hp hq => ⟨publish_gray hq p, fun n hn => ?_, fun n hn => ?_, publish_one_bit hw hq p⟩,
    fun s t hstep => ?_⟩
  · exact (publish_iterate hp hq n).trans (by rw [FifoCfg.modulus, Nat.min_eq_left hn])
  · exact (publish_iterate hp hq n).trans (by rw [FifoCfg.modulus, Nat.min_eq_right hn, subMod_add_mod hp])
  · obtain ⟨env, draws, hrun⟩ := exists_runTick_of_step hstep
    cases htick : nextTick s with
    | core req =>
      rw [htick] at hrun
      have hcopies := coreCopies_runTick hrun
      simp only [coreCopies, Prod.mk.injEq] at hcopies
      obtain ⟨-, -, -, hrpub, hwpub⟩ := hcopies
      exact ⟨hrpub, hwpub⟩
    | rx byte =>
      rw [htick] at hrun
      exact congrArg Prod.snd (rxDomCopies_runTick hrun)
    | tx done =>
      rw [htick] at hrun
      have hcopies := txDomCopies_runTick hrun
      simp only [txDomCopies, Prod.mk.injEq] at hcopies
      obtain ⟨-, -, hrpub⟩ := hcopies
      exact hrpub

end

section
/-! The rules of reset, push and pop (40_fifo_cdc.md R150, R170 to R172, R184), and what the counts say of each side's
view and of the cell a pop reads (R172, R180, R181). -/

namespace Sys2Proof.Machine

/-! ## Reset -/

theorem stagePtr_replicate_zero (depth : Nat) : stagePtr (List.replicate depth 0) = 0 := by
  cases depth with
  | zero => rfl
  | succ n => exact List.eq_of_mem_replicate (stagePtr_mem (List.cons_ne_nil 0 (List.replicate n 0)))

theorem leadW_reset (c : FifoCfg) (depth : Nat) : (Fifo.reset depth).leadW c = 0 := by
  have hstage : stagePtr (Fifo.reset depth).rsync = 0 := stagePtr_replicate_zero depth
  rw [Fifo.leadW_eq_lagOf, hstage]
  exact lagOf_zero c

theorem leadR_reset (c : FifoCfg) (depth : Nat) : (Fifo.reset depth).leadR c = 0 := by
  have hstage : stagePtr (Fifo.reset depth).wsync = 0 := stagePtr_replicate_zero depth
  have hbin : bin c.pw 0 = 0 := bin_gray (Nat.two_pow_pos c.pw)
  rw [Fifo.leadR, hstage, hbin]
  exact subMod_eq_of_add_modEq (modulus_pos c) rfl

/-! ## Discard -/

/-- A discard moves the read pointer and its count, or does nothing. -/
theorem Fifo.discard_eq (c : FifoCfg) (f : Fifo) :
    f.discard c = { f with
      rptr := if c.cap < f.leadR c then subMod (bin c.pw (stagePtr f.wsync)) c.cap c.modulus else f.rptr
      ghost := { f.ghost with
        rabs := if c.cap < f.leadR c then f.ghost.rabs + (f.leadR c - c.cap) else f.ghost.rabs } } := by
  by_cases h : c.cap < f.leadR c
  · rw [discard_of_excess h, if_pos h, if_pos h]
  · rw [discard_of_fit (Nat.not_lt.1 h), if_neg h, if_neg h]

theorem Fifo.overwritten_iff_tag (c : FifoCfg) (f : Fifo) :
    f.overwritten c = true ↔ lookupKey f.ghost.tag (f.rptr % c.cap) ≠ some f.ghost.rabs := bne_iff_ne

theorem Fifo.overwritten_eq_false_iff (c : FifoCfg) (f : Fifo) :
    f.overwritten c = false ↔ lookupKey f.ghost.tag (f.rptr % c.cap) = some f.ghost.rabs := by
  rw [← Bool.not_eq_true, overwritten_iff_tag, not_not]

section
variable {c : FifoCfg} {depth : Nat} {f : Fifo}

/-- A discard passes the bytes by which the read side's lead exceeds N. -/
theorem discard_eq_readOn (hr : f.rptr = f.ghost.rabs % c.modulus) :
    f.discard c = f.readOn c (f.leadR c - c.cap) := by
  by_cases hfit : f.leadR c ≤ c.cap
  · rw [Fifo.discard_of_fit hfit, Nat.sub_eq_zero_of_le hfit, Fifo.readOn, Nat.add_zero, ← hr]
  · have hexcess : c.cap < f.leadR c := Nat.not_le.1 hfit
    have hjump : subMod (bin c.pw (stagePtr f.wsync)) c.cap c.modulus
        = (f.ghost.rabs + (f.leadR c - c.cap)) % c.modulus := by
      refine subMod_eq_of_add_modEq (Nat.mod_lt _ (modulus_pos c)) ?_
      have hview := leadR_add_rptr c f
      rw [hr] at hview
      calc (f.ghost.rabs + (f.leadR c - c.cap)) % c.modulus + c.cap
          ≡ f.ghost.rabs + (f.leadR c - c.cap) + c.cap [MOD c.modulus] := (Nat.mod_modEq _ _).add_right _
        _ = f.leadR c + f.ghost.rabs := by omega
        _ ≡ f.leadR c + f.ghost.rabs % c.modulus [MOD c.modulus] := (Nat.mod_modEq _ _).symm.add_left _
        _ ≡ bin c.pw (stagePtr f.wsync) [MOD c.modulus] := hview
    rw [Fifo.discard_of_excess hexcess, Fifo.readOn, hjump]

/-! ## Views -/

/-- Either FIFO of a state with the invariant. -/
theorem Inv.fifoOk {s : State} (h : Inv s) (hmem : (c, f) ∈ [(s.cfg.rx, s.rx), (s.cfg.tx, s.tx)]) :
    LegalFifo c ∧ FifoOk c s.cfg.depth s.g.fault f := by
  simp only [List.mem_cons, Prod.mk.injEq, List.not_mem_nil, or_false] at hmem
  rcases hmem with ⟨rfl, rfl⟩ | ⟨rfl, rfl⟩
  · exact ⟨h.legal_rx, h.rxOk⟩
  · exact ⟨h.legal_tx, h.txOk⟩

theorem FifoInv.rsync_ne_nil (h : FifoInv c depth f) (hd : 0 < depth) : f.rsync ≠ [] :=
  List.ne_nil_of_length_pos (h.rsync_length ▸ hd)

theorem FifoInv.wsync_ne_nil (h : FifoInv c depth f) (hd : 0 < depth) : f.wsync ≠ [] :=
  List.ne_nil_of_length_pos (h.wsync_length ▸ hd)

/-- The read side's view errs low (40_fifo_cdc.md R181). -/
theorem leadR_le_lead (hi : FifoInv c depth f) (hs : f.wsync ≠ []) (h : CrossInv c f) :
    f.leadR c ≤ f.ghost.wabs - f.ghost.rabs := (leadR_eq hi hs h).le.trans (Nat.sub_le _ _)

/-- The write side's view errs high (40_fifo_cdc.md R180). -/
theorem lead_le_leadW (hs : f.rsync ≠ []) (h : CrossInv c f) : f.ghost.wabs - f.ghost.rabs ≤ f.leadW c := by
  obtain ⟨-, -, hr⟩ := crossInv_iff.1 h
  exact hr.low _ (List.mem_cons_of_mem _ (stagePtr_mem hs))

/-! ## Races -/

/-- Among the last `m` counts below `w` one goes to the cell of `r`. -/
theorem exists_recent_same_cell {m r w : Nat} (hm : 0 < m) (hlt : r < w) :
    ∃ k < w, w ≤ k + m ∧ k % m = r % m := by
  have hdiv := Nat.div_add_mod (w - 1 - r) m
  have hrem := Nat.mod_lt (w - 1 - r) hm
  exact ⟨r + m * ((w - 1 - r) / m), by omega, by omega, Nat.add_mul_mod_self_left r m _⟩

/-- The tag of the cell under the read pointer is the read count while at most N bytes are unread; after that it is
the count of a later push to the same cell. -/
theorem overwritten_iff (hc : LegalFifo c) (hi : FifoInv c depth f) (hlt : f.ghost.rabs < f.ghost.wabs) :
    f.overwritten c = true ↔ c.cap < f.ghost.wabs - f.ghost.rabs := by
  obtain ⟨-, -, hr, -, -, -, -, htag⟩ := hi
  simp only [List.mem_range] at htag
  rw [Fifo.overwritten_iff_tag, hr, mod_modulus_mod_cap hc, ← Nat.not_le, not_iff_not]
  constructor
  · intro hlook
    obtain ⟨k, hk, hrecent, hcell⟩ := exists_recent_same_cell (cap_pos c) hlt
    have hlast := htag k hk hrecent
    rw [hcell, hlook] at hlast
    obtain rfl := Option.some.inj hlast
    omega
  · intro hfew
    exact htag _ hlt (by omega)

end

end Sys2Proof.Machine

open Sys2Proof Sys2Proof.Machine

/-- Settles O11: reset's fields are literal, and of equal pointers and copies both leads are 0. -/
theorem resetLeavesTheListedValues : Obligations.ResetLeavesTheListedValues := by
  intro c
  refine ⟨fun p hp => ?_, rfl, rfl, rfl, rfl, rfl, rfl, rfl, rfl, rfl, rfl, rfl, rfl, rfl, rfl, rfl, rfl, rfl, rfl, rfl,
    rfl, rfl⟩
  have hreset : p.2 = Fifo.reset c.depth := by
    simp only [List.mem_cons, List.not_mem_nil, or_false] at hp
    rcases hp with rfl | rfl <;> rfl
  dsimp only
  rw [hreset]
  exact ⟨rfl, rfl, rfl, rfl, rfl, rfl, rfl, rfl, rfl, fun _ => rfl, leadW_reset _ _, leadR_reset _ _⟩

/-- Settles O19: a storage reads what was last written to a cell, and so does the list of tags. -/
theorem pushWritesOneCell : Obligations.PushWritesOneCell := by
  intro c b f
  exact ⟨Memory.read_write f.mem _ b, lookupKey_insertKey f.ghost.tag _ _, rfl, rfl, rfl, rfl⟩

/-- Settles O23: an empty view, a fresh cell and an overwritten one, after the discard. -/
theorem popFollowsTheRule : Obligations.PopFollowsTheRule := by
  intro c draw f
  dsimp only
  have hdiscard := Fifo.discard_eq c f
  refine ⟨Fifo.pop_of_empty, fun hd htag => ?_, fun hd htag => ?_⟩
  · have hfresh : (f.discard c).overwritten c = false :=
      (Fifo.overwritten_eq_false_iff _ _).2 (by rw [hdiscard]; exact htag)
    refine (Fifo.pop_of_fresh hd hfresh).trans ?_
    rw [hdiscard]
    rfl
  · have hover : (f.discard c).overwritten c = true :=
      (Fifo.overwritten_iff_tag _ _).2 (by rw [hdiscard]; exact htag)
    refine (Fifo.pop_of_overwritten hd hover).trans ?_
    rw [hdiscard]
    rfl

/-- Settles O27: the copies' lags bracket the true lead, and the counts and flags are the leads cut off at N. -/
theorem viewsBracketTheTrueCount : Obligations.ViewsBracketTheTrueCount := by
  intro s c f hinv hfault hmem
  obtain ⟨-, hok⟩ := hinv.fifoOk hmem
  have hcross := hok.cross hfault
  have hlow := leadR_le_lead hok.inv (hok.inv.wsync_ne_nil hinv.depth_pos) hcross
  have hhigh := lead_le_leadW (hok.inv.rsync_ne_nil hinv.depth_pos) hcross
  have hcap := cap_pos c
  simp only [Fifo.countR, Fifo.countW, Fifo.absCount, Fifo.absFull, Fifo.fullW, Fifo.emptyW, Fifo.fullR, Fifo.emptyR,
    beq_iff_eq, decide_eq_true_eq]
  refine ⟨hlow, hhigh, ?_⟩
  change _ ∧ _ ∧ _ ≤ c.cap ∧ _
  omega

/-- Settles O29: the pop reads under the discarded read pointer, whose count is one less than the one it leaves. -/
theorem raceExactlyWhenLeadExceedsCapacity : Obligations.RaceExactlyWhenLeadExceedsCapacity := by
  intro s c f draw hinv hfault hmem hne
  obtain ⟨hc, hok⟩ := hinv.fifoOk hmem
  have hlow := leadR_le_lead hok.inv (hok.inv.wsync_ne_nil hinv.depth_pos) (hok.cross hfault)
  have hread := discard_eq_readOn (c := c) hok.inv.rptr_eq
  rcases f.pop_result c draw with ⟨hzero, -⟩ | ⟨-, v, -, hfifo, hraced⟩
  · exact absurd hzero hne
  have hbehind : (f.discard c).ghost.rabs < (f.discard c).ghost.wabs := by
    have hcap := cap_pos c
    rw [hread, Fifo.readOn]
    simp only
    omega
  have hinv' : FifoInv c s.cfg.depth (f.discard c) := hread ▸ hok.inv.readOn _
  have hwabs : (f.discard c).ghost.wabs = f.ghost.wabs := by rw [hread, Fifo.readOn]
  rw [hraced, hfifo, overwritten_iff hc hinv' hbehind, hwabs]
  rfl

end

section
/-! Draining a FIFO (40_fifo_cdc.md R183): what the cells hold of the bytes not yet read, which a push extends and
reading on shortens. -/

namespace Sys2Proof.Machine

section
variable {c : FifoCfg} {f : Fifo} {l : List Byte}

/-- The bytes `l` are pushed and not yet read, and the last N of them stand in their cells, under the counts of their
pushes. -/
structure Fifo.Unread (c : FifoCfg) (f : Fifo) (l : List Byte) : Prop where
  rptr_eq : f.rptr = f.ghost.rabs % c.modulus
  wptr_eq : f.wptr = (f.ghost.rabs + l.length) % c.modulus
  wabs_eq : f.ghost.wabs = f.ghost.rabs + l.length
  byte : ∀ i < l.length, l.length ≤ i + c.cap → some (f.mem.read ((f.ghost.rabs + i) % c.cap)) = l[i]?
  tag : ∀ i < l.length, l.length ≤ i + c.cap →
    lookupKey f.ghost.tag ((f.ghost.rabs + i) % c.cap) = some (f.ghost.rabs + i)

namespace Fifo.Unread

/-! ## Pushing -/

/-- A push adds its byte: its cell is that of none of the last N - 1 bytes. -/
theorem push (hc : LegalFifo c) (b : Byte) (h : f.Unread c l) : (f.push c b).Unread c (l ++ [b]) := by
  obtain ⟨hr, hw, ha, hbyte, htag⟩ := h
  have hcell : f.wptr % c.cap = (f.ghost.rabs + l.length) % c.cap := by rw [hw, mod_modulus_mod_cap hc]
  have hother : ∀ i < l.length, l.length + 1 ≤ i + c.cap →
      (f.ghost.rabs + i) % c.cap ≠ (f.ghost.rabs + l.length) % c.cap := fun i hi hlast =>
    mod_cap_ne (by omega) (by omega)
  rw [Fifo.push_touches]
  refine ⟨hr, ?_, ?_, fun i hi hlast => ?_, fun i hi hlast => ?_⟩
  · simp only [hw, Nat.mod_add_mod, List.length_append, List.length_singleton, Nat.add_assoc]
  · simp only [ha, List.length_append, List.length_singleton, Nat.add_assoc]
  · rw [List.length_append, List.length_singleton] at hi hlast
    simp only [Memory.read_write, hcell]
    rcases Nat.lt_succ_iff_lt_or_eq.1 hi with hold | rfl
    · rw [if_neg (hother i hold hlast), hbyte i hold (by omega), List.getElem?_append_left hold]
    · rw [if_pos rfl, List.getElem?_concat_length]
  · rw [List.length_append, List.length_singleton] at hi hlast
    simp only [lookupKey_insertKey, hcell]
    rcases Nat.lt_succ_iff_lt_or_eq.1 hi with hold | rfl
    · rw [if_neg (hother i hold hlast), htag i hold (by omega)]
    · rw [if_pos rfl, ha]

theorem pushAll (hc : LegalFifo c) (bytes : List Byte) (h : f.Unread c l) :
    (f.pushAll c bytes).Unread c (l ++ bytes) := by
  induction bytes generalizing f l with
  | nil => rwa [List.append_nil]
  | cons b rest ih =>
    rw [List.append_cons]
    exact ih (h.push hc b)

/-! ## Reading -/

/-- With its view caught up, the read side's lead is the number of unread bytes. -/
theorem leadR_eq (h : f.Unread c l) (hview : bin c.pw (stagePtr f.wsync) = f.wptr) (hl : l.length < c.modulus) :
    f.leadR c = l.length := by
  refine subMod_eq_of_add_modEq hl ?_
  calc l.length + f.rptr
      ≡ l.length + f.ghost.rabs [MOD c.modulus] := h.rptr_eq ▸ (Nat.mod_modEq _ _).add_left _
    _ = f.ghost.rabs + l.length := Nat.add_comm _ _
    _ ≡ bin c.pw (stagePtr f.wsync) [MOD c.modulus] := by
        rw [hview, h.wptr_eq]
        exact (Nat.mod_modEq _ _).symm

theorem readOn {n : Nat} (hn : n ≤ l.length) (h : f.Unread c l) : (f.readOn c n).Unread c (l.drop n) := by
  obtain ⟨-, hw, ha, hbyte, htag⟩ := h
  have hend : f.ghost.rabs + n + (l.drop n).length = f.ghost.rabs + l.length := by
    rw [List.length_drop]
    omega
  refine ⟨rfl, hend.symm ▸ hw, hend.symm ▸ ha, fun i hi hlast => ?_, fun i hi hlast => ?_⟩
  · rw [List.length_drop] at hi hlast
    have hread := hbyte (n + i) (by omega) (by omega)
    rwa [← Nat.add_assoc, ← List.getElem?_drop] at hread
  · rw [List.length_drop] at hi hlast
    have hlook := htag (n + i) (by omega) (by omega)
    rwa [← Nat.add_assoc] at hlook

/-- A pop of at most N unread bytes, all in view, returns the first. -/
theorem pop {b : Byte} (hc : LegalFifo c) (draw : Byte) (h : f.Unread c (b :: l)) (hlead : f.leadR c = l.length + 1)
    (hfit : l.length < c.cap) :
    f.pop c draw = { byte := some b, fifo := f.readOn c 1, raced := false } := by
  have hdiscard : f.discard c = f := Fifo.discard_of_fit (by omega)
  have hcell : f.rptr % c.cap = (f.ghost.rabs + 0) % c.cap := by rw [h.rptr_eq, mod_modulus_mod_cap hc, Nat.add_zero]
  have hfresh : (f.discard c).overwritten c = false := by
    rw [hdiscard, Fifo.overwritten_eq_false_iff, hcell]
    exact h.tag 0 (Nat.succ_pos _) (by simpa using hfit)
  have hbyte : some (f.mem.read (f.rptr % c.cap)) = some b := by
    rw [hcell]
    exact h.byte 0 (Nat.succ_pos _) (by simpa using hfit)
  have hadvance : f.advance c = f.readOn c 1 := by rw [Fifo.advance, Fifo.readOn, h.rptr_eq, Nat.mod_add_mod]
  rw [Fifo.pop_of_fresh (by omega) hfresh, hdiscard, hbyte, hadvance]

end Fifo.Unread

theorem cap_lt_modulus (hc : LegalFifo c) : c.cap < c.modulus := by
  obtain ⟨-, -, hpw, -⟩ := hc
  exact Nat.pow_lt_pow_right Nat.one_lt_two hpw

/-- Pops return at most N unread bytes in order, and then none. -/
theorem popMany_of_fit (hc : LegalFifo c) (draw : Byte) (h : f.Unread c l)
    (hview : bin c.pw (stagePtr f.wsync) = f.wptr) (hfit : l.length ≤ c.cap) :
    f.popMany c draw (l.length + 1) = l.map some ++ [none] := by
  have hlead := h.leadR_eq hview (hfit.trans_lt (cap_lt_modulus hc))
  induction l generalizing f with
  | nil =>
    rw [List.length_nil, Fifo.popMany, Fifo.pop_of_empty hlead]
    rfl
  | cons b rest ih =>
    have hrest : (f.readOn c 1).Unread c rest := h.readOn (Nat.succ_pos _)
    have hfit' : rest.length ≤ c.cap := (Nat.le_succ _).trans hfit
    rw [List.length_cons, Fifo.popMany, h.pop hc draw hlead hfit,
      ih hrest hview hfit' (hrest.leadR_eq hview (hfit'.trans_lt (cap_lt_modulus hc)))]
    rfl

/-- A pop after a discard is the pop: it discards nothing more. -/
theorem pop_discard (draw : Byte) (hlead : (f.discard c).leadR c = min c.cap (f.leadR c)) :
    (f.discard c).pop c draw = f.pop c draw := by
  have hcap := cap_pos c
  have hidem : (f.discard c).discard c = f.discard c := Fifo.discard_of_fit (hlead ▸ Nat.min_le_left _ _)
  have hempty : (f.discard c).leadR c = 0 ↔ f.leadR c = 0 := by omega
  by_cases hzero : f.leadR c = 0
  · rw [Fifo.discard_of_fit (by omega)]
  · unfold Fifo.pop
    rw [if_neg hzero, if_neg (mt hempty.1 hzero), hidem]

/-- Pops return the last N unread bytes in order, and then none: the first pop's discard passes the others. -/
theorem popMany_of_unread (hc : LegalFifo c) (draw : Byte) (h : f.Unread c l)
    (hview : bin c.pw (stagePtr f.wsync) = f.wptr) (hl : l.length < c.modulus) :
    f.popMany c draw (min l.length c.cap + 1) = (l.drop (l.length - c.cap)).map some ++ [none] := by
  have hlead := h.leadR_eq hview hl
  have hread : f.discard c = f.readOn c (l.length - c.cap) := hlead ▸ discard_eq_readOn h.rptr_eq
  have hlast : (f.discard c).Unread c (l.drop (l.length - c.cap)) := hread ▸ h.readOn (Nat.sub_le _ _)
  have hview' : bin c.pw (stagePtr (f.discard c).wsync) = (f.discard c).wptr := by
    rw [hread]
    exact hview
  have hlength : (l.drop (l.length - c.cap)).length = min l.length c.cap := by
    rw [List.length_drop]
    omega
  have hlead' := hlast.leadR_eq hview' (by omega)
  have hpop : (f.discard c).pop c draw = f.pop c draw := pop_discard draw (by rw [hlead', hlength, hlead, Nat.min_comm])
  have hdrain := popMany_of_fit hc draw hlast hview' (by omega)
  rwa [hlength, Fifo.popMany, hpop] at hdrain

theorem pushAll_wsync (bytes : List Byte) (f : Fifo) : (f.pushAll c bytes).wsync = f.wsync := by
  induction bytes generalizing f with
  | nil => rfl
  | cons b rest ih => exact ih _

theorem bin_stagePtr_caughtUp (hs : f.wsync ≠ []) (hw : f.wptr < c.modulus) :
    bin c.pw (stagePtr f.caughtUp.wsync) = f.wptr := by
  obtain ⟨_, -, hstage⟩ := List.mem_map.1 (stagePtr_mem (sync := f.caughtUp.wsync) (by simpa [Fifo.caughtUp] using hs))
  rw [← hstage]
  exact bin_gray hw

end

end Sys2Proof.Machine

open Sys2Proof Sys2Proof.Machine

/-- Settles O30: the pushes, by induction on the bytes, leave the last N of them in their cells, and the pops, by
induction on what the discard leaves, return them. -/
theorem drainYieldsTheLastBytesPushed : Obligations.DrainYieldsTheLastBytesPushed := by
  intro c draw f bytes hc hw hr hab hs hlen
  have hlt : bytes.length < c.modulus := Nat.lt_of_le_sub_one (modulus_pos c) hlen
  have hempty : f.Unread c [] := ⟨hr.trans (hab ▸ hw), hab ▸ hw, hab.symm, fun i hi => absurd hi (Nat.not_lt_zero i),
    fun i hi => absurd hi (Nat.not_lt_zero i)⟩
  have hpushed : (f.pushAll c bytes).Unread c bytes := hempty.pushAll hc bytes
  have hcaught : (f.pushAll c bytes).caughtUp.Unread c bytes :=
    ⟨hpushed.rptr_eq, hpushed.wptr_eq, hpushed.wabs_eq, hpushed.byte, hpushed.tag⟩
  have hwptr : (f.pushAll c bytes).wptr < c.modulus := hpushed.wptr_eq ▸ Nat.mod_lt _ (modulus_pos c)
  exact popMany_of_unread hc draw hcaught (bin_stagePtr_caughtUp (pushAll_wsync bytes f ▸ hs) hwptr) hlt

end

section
/-! The port events and the engine (41_transport.md R200 to R207), and what RX_POP, TX_SEND, NOP and ILLEGAL answer
(R211, R212, R220, R221): each request or event by its cases, and the tick that runs it. -/

namespace Sys2Proof.Machine

/-! ## Pops -/

theorem noteRace_false (s : State) : noteRace false s = s := rfl

theorem noteRace_true (s : State) : noteRace true s = { s with g.race := true, draws := s.draws + 1 } := rfl

/-- A pop that returns nothing does nothing. -/
theorem Fifo.pop_of_byte_none {c : FifoCfg} {draw : Byte} {f : Fifo} (h : (f.pop c draw).byte = none) :
    f.pop c draw = { byte := none, fifo := f, raced := false } := by
  rcases f.pop_result c draw with ⟨-, hpop⟩ | ⟨-, v, hbyte, -⟩
  · exact hpop
  · cases h.symm.trans hbyte

section
variable {s : State} {v : Byte}

/-- What a pop of the RX FIFO returns in `s`. -/
abbrev rxPopResult (s : State) : PopResult := s.rx.pop s.cfg.rx (Config.freeByte s.draws)

/-- What a pop of the TX FIFO returns in `s`. -/
abbrev txPopResult (s : State) : PopResult := s.tx.pop s.cfg.tx (Config.freeByte s.draws)

theorem popRx_of_none (h : (rxPopResult s).byte = none) : popRx s = (none, s) := by
  unfold popRx
  rw [Fifo.pop_of_byte_none h]
  rfl

theorem popRx_of_some (h : (rxPopResult s).byte = some v) :
    popRx s = (some v, noteRace (rxPopResult s).raced { s with rx := (rxPopResult s).fifo }) := Prod.ext h rfl

theorem popTx_of_none (h : (txPopResult s).byte = none) : popTx s = (none, s) := by
  unfold popTx
  rw [Fifo.pop_of_byte_none h]
  rfl

theorem popTx_of_some (h : (txPopResult s).byte = some v) :
    popTx s = (some v, noteRace (txPopResult s).raced { s with tx := (txPopResult s).fifo }) := Prod.ext h rfl

theorem exec_rxPop_of_none (h : (rxPopResult s).byte = none) : exec .rxPop s = .next (answer 0x10000000 s) := by
  simp only [exec, execRxPop, popRx_of_none h]
  rfl

/-- RX_POP answers the popped byte, raced or not. -/
theorem exec_rxPop_of_some (h : (rxPopResult s).byte = some v) :
    exec .rxPop s = .next (answer (responseWord .ok (zext28 v))
      (noteRace (rxPopResult s).raced { s with rx := (rxPopResult s).fifo })) := by
  simp only [exec, execRxPop, popRx_of_some h, respond_eq_answer]

/-! ## The engine -/

/-- The state in which the popped byte `v` has been started. -/
def startPopped (v : Byte) (s : State) : State :=
  startTx v (noteRace (txPopResult s).raced { s with tx := (txPopResult s).fifo })

theorem startPopped_of_clean (h : (txPopResult s).raced = false) :
    startPopped v s = { s with
      tx := (txPopResult s).fifo, te.inflight := v, te.busy := true, txStart := some v
      g.txlog := s.g.txlog ++ [v] } := by
  rw [startPopped, h, noteRace_false, startTx]

theorem startPopped_of_raced (h : (txPopResult s).raced = true) :
    startPopped v s = { s with
      tx := (txPopResult s).fifo, te.inflight := v, te.busy := true, txStart := some v
      g.txlog := s.g.txlog ++ [v], g.race := true, draws := s.draws + 1 } := by
  rw [startPopped, h, noteRace_true, startTx]

theorem chainNext_of_none (h : (txPopResult s).byte = none) : chainNext s = { s with te.busy := false } := by
  simp only [chainNext, popTx_of_none h]

theorem chainNext_of_some (h : (txPopResult s).byte = some v) : chainNext s = startPopped v s := by
  simp only [chainNext, popTx_of_some h, startPopped]

theorem idleStart_of_busy (h : s.te.busy = true) : idleStart s = s := by simp [idleStart, h]

theorem idleStart_of_disabled (h : stageBit s.te.enSync = false) : idleStart s = s := by simp [idleStart, h]

theorem idleStart_of_none (h : (txPopResult s).byte = none) : idleStart s = s := by
  simp only [idleStart, popTx_of_none h, ite_self]

theorem idleStart_of_some (hidle : s.te.busy = false) (hen : stageBit s.te.enSync = true)
    (h : (txPopResult s).byte = some v) : idleStart s = startPopped v s := by
  simp [idleStart, hidle, hen, popTx_of_some h, startPopped]

/-! ## TX_DONE and its tick -/

theorem exec_txDone_of_idle (h : s.te.busy = false) : exec .txDone s = .next s := by
  change execTxDone s = _
  rw [execTxDone, h]
  rfl

theorem exec_txDone_of_busy (h : s.te.busy = true) : exec .txDone s = .next (chainNext s) := by
  change execTxDone s = _
  rw [execTxDone, if_pos h]

theorem runTick_txDone_of_busy (h : s.te.busy = true) : runTick (.tx true) s = exec .txDone (txPhases s) := by
  have hexec : exec .txDone (txPhases s) = .next (chainNext (txPhases s)) := exec_txDone_of_busy h
  rw [runTick, hexec, h]
  rfl

/-- A TX_DONE that finds the engine idle leaves its tick to the idle start. -/
theorem runTick_txDone_of_idle (h : s.te.busy = false) : runTick (.tx true) s = .next (idleStart (txPhases s)) := by
  have hexec : exec .txDone (txPhases s) = .next (txPhases s) := exec_txDone_of_idle h
  rw [runTick, hexec, h]
  rfl

/-- A TxDom tick whose event, if any, does nothing runs the idle start. -/
theorem runTick_tx_of_idle {done : Bool} (h : done = true → s.te.busy = false) :
    runTick (.tx done) s = .next (idleStart (txPhases s)) := by
  cases done with
  | false => rfl
  | true => exact runTick_txDone_of_idle (h rfl)

/-! ## Pushes -/

theorem Fifo.laps_iff {c : FifoCfg} {f : Fifo} : f.laps c = true ↔ f.leadW c = 2 ^ c.pw - 1 := beq_iff_eq

theorem pushRx_of_room (h : s.rx.leadW s.cfg.rx ≠ 2 ^ s.cfg.rx.pw - 1) (b : Byte) :
    pushRx b s = { s with rx := s.rx.push s.cfg.rx b } := if_neg (mt Fifo.laps_iff.1 h)

theorem pushRx_of_lap (h : s.rx.leadW s.cfg.rx = 2 ^ s.cfg.rx.pw - 1) (b : Byte) :
    pushRx b s = { s with
      rx := s.rx.push s.cfg.rx b
      g.fault := some (s.g.fault.getD .lapOverrun) } := (if_pos (Fifo.laps_iff.2 h)).trans (raise_eq _ _)

theorem pushTx_of_room (h : s.tx.leadW s.cfg.tx ≠ 2 ^ s.cfg.tx.pw - 1) (b : Byte) :
    pushTx b s = { s with tx := s.tx.push s.cfg.tx b } := if_neg (mt Fifo.laps_iff.1 h)

theorem pushTx_of_lap (h : s.tx.leadW s.cfg.tx = 2 ^ s.cfg.tx.pw - 1) (b : Byte) :
    pushTx b s = { s with
      tx := s.tx.push s.cfg.tx b
      g.fault := some (s.g.fault.getD .lapOverrun) } := (if_pos (Fifo.laps_iff.2 h)).trans (raise_eq _ _)

end

theorem exec_rxByte (b : Byte) (s : State) : exec (.rxByte b) s = .next (pushRx b s) := rfl

/-! ## Answers -/

theorem exec_nop (s : State) : exec .nop s = .next (answer 0x00000000 s) := rfl

/-- A status and a byte, the bits between them 0 (30_encoding.md R116). -/
theorem responseWord_zext28 (st : Status) (b : Byte) :
    responseWord st (zext28 b) = statusCode st ++ (0 : BitVec 20) ++ b := by
  change statusCode st ++ ((0 : BitVec 20) ++ b) = _
  rw [BitVec.append_assoc', BitVec.cast_eq]

theorem responseWord_ok_zext28 (b : Byte) : responseWord .ok (zext28 b) = (0 : BitVec 24) ++ b := by
  have hzero : statusCode .ok ++ (0 : BitVec 20) = (0 : BitVec 24) := rfl
  rw [responseWord_zext28, hzero]

end Sys2Proof.Machine

open Sys2Proof Sys2Proof.Machine

/-- Settles O26: the tick is its phases and the idle start, which starts a byte only if it pops one. -/
theorem idleEngineStartsTheNextByte : Obligations.IdleEngineStartsTheNextByte := by
  intro s done rest henv hdone
  dsimp only
  have hstep : step s = .next (idleStart (txPhases { s with env := rest })) :=
    (step_of_offer henv).trans (runTick_tx_of_idle hdone)
  rw [hstep]
  refine ⟨fun hnone => ?_, fun v hidle hen hbyte hclean => ?_, fun v hidle hen hbyte hraced => ?_⟩
  · rcases hnone with hbusy | hdisabled | hempty
    · rw [idleStart_of_busy hbusy]
    · rw [idleStart_of_disabled hdisabled]
    · rw [idleStart_of_none hempty]
  · rw [idleStart_of_some hidle hen hbyte, startPopped_of_clean hclean]
  · rw [idleStart_of_some hidle hen hbyte, startPopped_of_raced hraced]

/-- Settles O4: a reserved bit or op 0xF makes the word ILLEGAL, whose answer is its only effect. -/
theorem rejectedWordsAnswerIllegal : Obligations.RejectedWordsAnswerIllegal := by
  refine ⟨fun w s hw => ?_, exec_illegal⟩
  have hdec : decodeReq w = .illegal w := by
    rcases hw with hhigh | hlow | hop
    · exact decodeReq_of_reserved (reservedSet_iff.2 (.inl hhigh))
    · exact decodeReq_of_reserved (reservedSet_iff.2 (.inr hlow))
    · exact decodeReq_of_op_fifteen hop
  exact ⟨hdec, hdec ▸ exec_illegal w s⟩

/-- Settles O7: an offered tick is run as it stands; of a TxDom tick with TX_DONE, by whether the engine is busy. -/
theorem stepRunsTheOfferedInstruction : Obligations.StepRunsTheOfferedInstruction := by
  intro s rest
  exact ⟨fun _ henv => step_of_offer henv, fun _ henv => step_of_offer henv,
    fun henv hbusy => (step_of_offer henv).trans (runTick_txDone_of_busy hbusy),
    fun henv hidle => ⟨exec_txDone_of_idle hidle, (step_of_offer henv).trans (runTick_txDone_of_idle hidle)⟩,
    step_of_offer, step_of_offer, step_of_offer, step_of_no_offer⟩

/-- Settles O20: a push with room, and one that laps. -/
theorem rxBytePushesTheByte : Obligations.RxBytePushesTheByte := by
  intro b s
  refine ⟨fun hroom => ?_, fun hlap => ?_⟩
  · rw [exec_rxByte, pushRx_of_room hroom]
  · rw [exec_rxByte, pushRx_of_lap hlap]

/-- Settles O21: a push with room, and one that laps, each enabled and answered. -/
theorem txSendQueuesTheByte : Obligations.TxSendQueuesTheByte := by
  intro d s
  refine ⟨fun hroom => ?_, fun hlap => ?_⟩
  · rw [exec_txSend, emitByte, pushTx_of_room hroom]
  · rw [exec_txSend, emitByte, pushTx_of_lap hlap]

/-- Settles O24: a pop that returns nothing, a clean one and a raced one. -/
theorem rxPopAnswersTheByte : Obligations.RxPopAnswersTheByte := by
  intro s
  refine ⟨exec_rxPop_of_none, fun v hbyte hclean => ?_, fun v hbyte hraced => ?_⟩
  · rw [exec_rxPop_of_some hbyte, responseWord_ok_zext28, hclean, noteRace_false]
  · rw [exec_rxPop_of_some hbyte, responseWord_ok_zext28, hraced, noteRace_true]

/-- Settles O25: an idle engine does nothing, and a busy one takes the chain step. -/
theorem txDoneDrivesTheChain : Obligations.TxDoneDrivesTheChain := by
  intro s
  refine ⟨exec_txDone_of_idle, fun hbusy hempty => ?_, fun v hbusy hbyte hclean => ?_,
    fun v hbusy hbyte hraced => ?_⟩
  · rw [exec_txDone_of_busy hbusy, chainNext_of_none hempty]
  · rw [exec_txDone_of_busy hbusy, chainNext_of_some hbyte, startPopped_of_clean hclean]
  · rw [exec_txDone_of_busy hbusy, chainNext_of_some hbyte, startPopped_of_raced hraced]

/-- Settles O31: NOP's answer is all that its tick adds to the phases. -/
theorem nopAnswersOk : Obligations.NopAnswersOk := by
  refine ⟨exec_nop, fun s u w rest hdec henv hidle => ?_⟩
  obtain rfl : corePhases { s with env := rest } = u := Host.Outcome.next.inj hidle
  rw [step_of_offer henv, runTick, hdec, exec_nop]

end

section
/-! STATUS (41_transport.md R224) and its payloads bit by bit (30_encoding.md R122), and RECONF (41_transport.md R230
to R233). -/

namespace Sys2Proof.Machine
open BitVec

/-! ## The fields of a word -/

/-- A three-byte payload under status OK, field by field (30_encoding.md R118). -/
theorem responseWord_payload3 (x y z : Byte) :
    responseWord .ok (payload3 x y z) = (0 : BitVec 8) ++ x ++ y ++ z := by
  change (0 : BitVec 4) ++ ((0 : BitVec 4) ++ x ++ y ++ z) = _
  simp only [append_assoc', BitVec.cast_eq]
  rfl

/-- Each byte stands in its field, and the bits above are 0. -/
theorem payload3_fields (x y z : Byte) :
    (responseWord .ok (payload3 x y z)).extractLsb' 0 8 = z
      ∧ (responseWord .ok (payload3 x y z)).extractLsb' 8 8 = y
      ∧ (responseWord .ok (payload3 x y z)).extractLsb' 16 8 = x
      ∧ (responseWord .ok (payload3 x y z)).extractLsb' 24 8 = 0 := by
  rw [responseWord_payload3]
  exact ⟨extractLsb'_append_eq_right, (extractLsb'_append_eq_of_le (by decide)).trans extractLsb'_append_eq_right,
    (extractLsb'_append_eq_of_le (by decide)).trans <|
      (extractLsb'_append_eq_of_le (by decide)).trans extractLsb'_append_eq_right,
    (extractLsb'_append_eq_of_le (by decide)).trans <| (extractLsb'_append_eq_of_le (by decide)).trans <|
      (extractLsb'_append_eq_of_le (by decide)).trans rfl⟩

/-- Of a two-byte payload the whole upper half is 0. -/
theorem payload2_fields (y z : Byte) :
    (responseWord .ok (payload2 y z)).extractLsb' 0 8 = z
      ∧ (responseWord .ok (payload2 y z)).extractLsb' 8 8 = y
      ∧ (responseWord .ok (payload2 y z)).extractLsb' 16 16 = 0 := by
  obtain ⟨hz, hy, -, -⟩ := payload3_fields 0 y z
  refine ⟨hz, hy, ?_⟩
  rw [payload2, responseWord_payload3]
  exact (extractLsb'_append_eq_of_le (by decide)).trans ((extractLsb'_append_eq_of_le (by decide)).trans rfl)

/-- A number below 2^28 is answered as itself. -/
theorem toNat_responseWord_ofNat {n : Nat} (h : n < 2 ^ 28) : (responseWord .ok (BitVec.ofNat 28 n)).toNat = n := by
  change ((0 : BitVec 4) ++ BitVec.ofNat 28 n).toNat = n
  rw [toNat_append, toNat_ofNat, Nat.mod_eq_of_lt h, BitVec.ofNat_eq_ofNat, toNat_zero, Nat.zero_shiftLeft, Nat.zero_or]

/-- A count of the FIFO is at most N, which a legal configuration keeps far below 2^28. -/
theorem min_cap_lt {c : FifoCfg} (hc : LegalFifo c) (lead : Nat) : min c.cap lead < 2 ^ 28 := by
  obtain ⟨-, haw, -⟩ := hc
  have hcap : c.cap ≤ 2 ^ 15 := Nat.pow_le_pow_right (by decide) haw
  omega

/-! ## STATUS -/

/-- The flags of selector 0 under status OK, field by field. -/
theorem responseWord_statusFlags (s : State) :
    responseWord .ok (statusFlags s)
      = (0 : BitVec 25) ++ ofBool s.te.txEn ++ s.le.esc ++ ofBool s.tx.lapErr ++ ofBool (stageBit s.lapSync)
        ++ ofBool (stageBit s.te.busySync) ++ ofBool s.dp.pending := by
  change (0 : BitVec 4) ++ ((0 : BitVec 21) ++ ofBool s.te.txEn ++ s.le.esc ++ ofBool s.tx.lapErr
    ++ ofBool (stageBit s.lapSync) ++ ofBool (stageBit s.te.busySync) ++ ofBool s.dp.pending) = _
  simp only [append_assoc', BitVec.cast_eq]
  rfl

/-- A field above the four low flags stands in the part of the word they follow. -/
theorem extractLsb'_concat_four {w i n : Nat} (x : BitVec w) (b₃ b₂ b₁ b₀ : Bool) :
    (x ++ ofBool b₃ ++ ofBool b₂ ++ ofBool b₁ ++ ofBool b₀).extractLsb' (i + 4) n = x.extractLsb' i n := by
  rw [extractLsb'_append_eq_of_le (by omega), extractLsb'_append_eq_of_le (by omega),
    extractLsb'_append_eq_of_le (by omega), extractLsb'_append_eq_of_le (by omega)]
  rfl

/-- The word of STATUS 0 holds the flags and no other bit: the low four, then the escape state and the transmit
enable above them. -/
theorem statusFlags_fields (s : State) :
    (responseWord .ok (statusFlags s)).getLsbD 0 = s.dp.pending
      ∧ (responseWord .ok (statusFlags s)).getLsbD 1 = stageBit s.te.busySync
      ∧ (responseWord .ok (statusFlags s)).getLsbD 2 = stageBit s.lapSync
      ∧ (responseWord .ok (statusFlags s)).getLsbD 3 = s.tx.lapErr
      ∧ (responseWord .ok (statusFlags s)).extractLsb' 4 2 = s.le.esc
      ∧ (responseWord .ok (statusFlags s)).getLsbD 6 = s.te.txEn
      ∧ (responseWord .ok (statusFlags s)).extractLsb' 7 25 = 0 := by
  rw [responseWord_statusFlags]
  exact ⟨getLsbD_concat_zero, getLsbD_concat_succ.trans getLsbD_concat_zero,
    getLsbD_concat_succ.trans (getLsbD_concat_succ.trans getLsbD_concat_zero),
    getLsbD_concat_succ.trans (getLsbD_concat_succ.trans (getLsbD_concat_succ.trans getLsbD_concat_zero)),
    (extractLsb'_concat_four _ _ _ _ _).trans extractLsb'_append_eq_right,
    getLsbD_concat_succ.trans <| getLsbD_concat_succ.trans <| getLsbD_concat_succ.trans <|
      getLsbD_concat_succ.trans (getLsbD_append.trans getLsbD_concat_zero),
    (extractLsb'_concat_four _ _ _ _ _).trans <| (extractLsb'_append_eq_of_le (by decide)).trans <|
      (extractLsb'_append_eq_of_le (by decide)).trans rfl⟩

theorem exec_status_of_some {a : Byte} {s : State} {p : BitVec 28} (h : statusPayload a s = some p) :
    exec (.status a) s = .next (answer (responseWord .ok p) s) := by
  simp only [exec, execStatus, h, respond_eq_answer]

theorem statusPayload_of_seven_le {a : Byte} (ha : 7 ≤ a.toNat) (s : State) : statusPayload a s = none := by
  have hne : ∀ k : Byte, k.toNat < 7 → a ≠ k := by
    rintro k hk rfl
    omega
  unfold statusPayload
  rw [if_neg (hne 0 (by decide)), if_neg (hne 1 (by decide)), if_neg (hne 2 (by decide)), if_neg (hne 3 (by decide)),
    if_neg (hne 4 (by decide)), if_neg (hne 5 (by decide)), if_neg (hne 6 (by decide))]

theorem exec_status_of_seven_le {a : Byte} (ha : 7 ≤ a.toNat) (s : State) :
    exec (.status a) s = .next (answer 0x30000000 s) := by
  simp only [exec, execStatus, statusPayload_of_seven_le ha]
  rfl

/-! ## RECONF -/

theorem baudValid_iff {c : Config} {d : Byte} : baudValid c d = true ↔ d ∉ c.baudRefused := by simp [baudValid]

theorem respond_fail_baud (s : State) :
    respond .fail (zext28 s.baud) s = answer ((0x5 : BitVec 4) ++ (0 : BitVec 20) ++ s.baud) s :=
  congrArg (answer · s) (responseWord_zext28 .fail s.baud)

theorem exec_reconf_of_refused {d : Byte} {s : State} (h : d ∈ s.cfg.baudRefused) :
    exec (.reconf d) s = .next (answer ((0x5 : BitVec 4) ++ (0 : BitVec 20) ++ s.baud) s) := by
  rw [← respond_fail_baud]
  exact if_neg (mt baudValid_iff.1 (not_not_intro h))

theorem reinit_true (d : Byte) (s : State) :
    reinit d true s = answer ((0 : BitVec 24) ++ d) { s with baud := d } :=
  congrArg (answer · { s with baud := d }) (responseWord_ok_zext28 d)

theorem reinit_false (d : Byte) (s : State) :
    reinit d false s = answer ((0x5 : BitVec 4) ++ (0 : BitVec 20) ++ s.baud) s := respond_fail_baud s

theorem exec_reconf_of_valid {d : Byte} {s : State} (h : d ∉ s.cfg.baudRefused) :
    exec (.reconf d) s = .next (reinit d (Config.freeInitOk s.draws) { quiesce s with draws := s.draws + 1 }) :=
  if_pos (baudValid_iff.2 h)

end Sys2Proof.Machine

open Sys2Proof Sys2Proof.Machine

/-- Settles O32: each selector's payload is packed in its fields, and no selector from 7 on has one. -/
theorem statusReportsTheSelectedFields : Obligations.StatusReportsTheSelectedFields := by
  rintro s ⟨hrx, htx, -⟩
  refine ⟨⟨_, exec_status_of_some rfl, statusFlags_fields s⟩,
    ⟨_, exec_status_of_some rfl, toNat_responseWord_ofNat (min_cap_lt hrx _)⟩,
    ⟨_, exec_status_of_some rfl, toNat_responseWord_ofNat (min_cap_lt htx _)⟩,
    ⟨_, exec_status_of_some rfl, payload2_fields _ _⟩, ⟨_, exec_status_of_some rfl, payload3_fields _ _ _⟩, ?_,
    ⟨_, exec_status_of_some rfl, payload2_fields _ _⟩, fun a ha => exec_status_of_seven_le ha s⟩
  rw [exec_status_of_some rfl, responseWord_ok_zext28]

/-- Settles O33: the refusal comes before the quiesce. -/
theorem reconfRefusesAnInvalidRate : Obligations.ReconfRefusesAnInvalidRate :=
  fun _ _ hd => exec_reconf_of_refused hd

/-- Settles O34: the quiesce, then the two results of the drawn init. -/
theorem reconfQuiescesThenReinitializes : Obligations.ReconfQuiescesThenReinitializes := by
  intro d s hd
  rw [exec_reconf_of_valid hd]
  cases Config.freeInitOk s.draws with
  | true =>
    rw [reinit_true]
    rfl
  | false =>
    rw [reinit_false]
    rfl

end

section
/-! Editing the line (42_line_editor.md R260 to R267, R270 to R272): what a write leaves of a slice, and what INSERT and
BACKSPACE do to the line. -/

namespace Sys2Proof.Machine

/-! ## Slices -/

section
variable (m : Memory) {a i n : Nat}

/-- A slice is its first cells and the rest. -/
theorem Memory.slice_add (i n k : Nat) : m.slice i (n + k) = m.slice i n ++ m.slice (i + n) k := by
  rw [← List.take_append_drop n (m.slice i (n + k)), Memory.slice_take m i (n + k) n (Nat.le_add_right n k),
    Memory.slice_drop, Nat.add_sub_cancel_left]

theorem Memory.slice_one (i : Nat) : m.slice i 1 = [m.read i] := rfl

/-- A write outside a slice leaves it alone. -/
theorem Memory.slice_write_of_outside (v : Byte) (h : a < i ∨ i + n ≤ a) : (m.write a v).slice i n = m.slice i n :=
  Memory.slice_congr fun k hlo hhi => by rw [Memory.read_write, if_neg (by omega)]

theorem Memory.read_writeBytes_of_lt (l : List Byte) (h : i < a) : (m.writeBytes a l).read i = m.read i := by
  rw [Memory.read_writeBytes, if_neg (Nat.not_le.2 h)]

theorem Memory.read_writeBytes_of_ge (l : List Byte) (h : a + l.length ≤ i) : (m.writeBytes a l).read i = m.read i := by
  rw [Memory.read_writeBytes, if_pos (Nat.le_of_add_right_le h), List.getElem?_eq_none (Nat.le_sub_of_add_le' h),
    Option.getD_none]

/-- Bytes written after the first `a` cells. -/
theorem Memory.slice_zero_writeBytes (a : Nat) (l : List Byte) :
    (m.writeBytes a l).slice 0 (a + l.length) = m.slice 0 a ++ l := by
  have hlow : (m.writeBytes a l).slice 0 a = m.slice 0 a :=
    Memory.slice_congr fun k _ hk => m.read_writeBytes_of_lt l (by omega)
  rw [Memory.slice_add, hlow, Nat.zero_add, Memory.slice_writeBytes]

end

/-! ## INSERT and BACKSPACE -/

section
variable {s : State}

theorem editTail_eq_drop (s : State) : editTail s = (editLine s).drop s.le.cur := by
  rw [editLine, Memory.slice_drop, Nat.zero_add]
  rfl

theorem take_editLine {k : Nat} (h : k ≤ s.le.len) : (editLine s).take k = s.le.buf.slice 0 k :=
  Memory.slice_take _ _ _ _ h

/-- `LE.buf` after BACKSPACE at a cursor past 0 (42_line_editor.md R263). -/
def bufBackspaced (s : State) : Memory := (s.le.buf.writeBytes (s.le.cur - 1) (editTail s)).write (s.le.len - 1) 0

/-- `LE.buf` after INSERT b on a line with room (42_line_editor.md R264). -/
def bufInserted (b : Byte) (s : State) : Memory := (s.le.buf.writeBytes (s.le.cur + 1) (editTail s)).write s.le.cur b

theorem bufBackspaced_slice (hcur : s.le.cur ≠ 0) (hle : s.le.cur ≤ s.le.len) :
    (bufBackspaced s).slice 0 (s.le.len - 1)
      = (editLine s).take (s.le.cur - 1) ++ (editLine s).drop s.le.cur := by
  have hlen : s.le.len - 1 = s.le.cur - 1 + (editTail s).length := by
    rw [editTail_length]
    omega
  rw [bufBackspaced, Memory.slice_write_of_outside _ _ (.inr (Nat.zero_add _).le), hlen, Memory.slice_zero_writeBytes,
    take_editLine (by omega), editTail_eq_drop]

theorem bufBackspaced_vacated (s : State) : (bufBackspaced s).read (s.le.len - 1) = 0 := by
  rw [bufBackspaced, Memory.read_write, if_pos rfl]

theorem bufBackspaced_beyond (hcur : s.le.cur ≠ 0) (hle : s.le.cur ≤ s.le.len) {a : Nat} (ha : s.le.len ≤ a) :
    (bufBackspaced s).read a = s.le.buf.read a := by
  have htail : s.le.cur - 1 + (editTail s).length ≤ a := by
    rw [editTail_length]
    omega
  rw [bufBackspaced, Memory.read_write, if_neg (by omega), Memory.read_writeBytes_of_ge _ _ htail]

theorem bufInserted_slice (b : Byte) (hle : s.le.cur ≤ s.le.len) :
    (bufInserted b s).slice 0 (s.le.len + 1)
      = (editLine s).take s.le.cur ++ [b] ++ (editLine s).drop s.le.cur := by
  have hlen : s.le.len + 1 = s.le.cur + 1 + (editTail s).length := by
    rw [editTail_length]
    omega
  have hhead : (bufInserted b s).slice 0 s.le.cur = (editLine s).take s.le.cur := by
    rw [bufInserted, Memory.slice_write_of_outside _ _ (.inr (Nat.zero_add _).le), take_editLine hle]
    exact Memory.slice_congr fun k _ hk => Memory.read_writeBytes_of_lt _ _ (by omega)
  have hbyte : (bufInserted b s).read s.le.cur = b := by rw [bufInserted, Memory.read_write, if_pos rfl]
  have htail : (bufInserted b s).slice (s.le.cur + 1) (editTail s).length = (editLine s).drop s.le.cur := by
    rw [bufInserted, Memory.slice_write_of_outside _ _ (.inl (Nat.lt_succ_self _)), Memory.slice_writeBytes,
      editTail_eq_drop]
  rw [hlen, Memory.slice_add, Memory.slice_add, Nat.zero_add, Nat.zero_add, Memory.slice_one, hhead, hbyte, htail]

theorem bufInserted_beyond (b : Byte) (hle : s.le.cur ≤ s.le.len) {a : Nat} (ha : s.le.len + 1 ≤ a) :
    (bufInserted b s).read a = s.le.buf.read a := by
  have htail : s.le.cur + 1 + (editTail s).length ≤ a := by
    rw [editTail_length]
    omega
  rw [bufInserted, Memory.read_write, if_neg (by omega), Memory.read_writeBytes_of_ge _ _ htail]

theorem exec_leBackspace_of_cur_zero (b : Byte) (h : s.le.cur = 0) : exec (.leBackspace b) s = .next s :=
  congrArg _ (if_pos h)

theorem exec_leBackspace_of_cur_ne_zero (b : Byte) (h : s.le.cur ≠ 0) :
    exec (.leBackspace b) s = .next (emit
      ([0x08] ++ (editLine s).drop s.le.cur ++ [0x20, 0x08] ++ List.replicate (s.le.len - s.le.cur) 0x08)
      { s with le.buf := bufBackspaced s, le.len := s.le.len - 1, le.cur := s.le.cur - 1 }) := by
  rw [← editTail_eq_drop]
  exact congrArg _ (if_neg h)

theorem lineFull_iff : lineFull s = true ↔ s.le.len = s.cfg.maxLen - 1 := beq_iff_eq

theorem typePrintable_of_room (b : Byte) (h : s.le.len ≠ s.cfg.maxLen - 1) : typePrintable b s = insertByte b s :=
  if_neg (mt lineFull_iff.1 h)

theorem insertByte_eq (b : Byte) (s : State) :
    insertByte b s = emit ([b] ++ (editLine s).drop s.le.cur ++ List.replicate (s.le.len - s.le.cur) 0x08)
      { s with le.buf := bufInserted b s, le.len := s.le.len + 1, le.cur := s.le.cur + 1 } := by
  rw [← editTail_eq_drop]
  rfl

theorem insertByte_le (b : Byte) (s : State) :
    (insertByte b s).le = { s.le with buf := bufInserted b s, len := s.le.len + 1, cur := s.le.cur + 1 } := emit_le _ _

theorem editLine_emit (l : List Byte) (s : State) : editLine (emit l s) = editLine s := by
  rw [editLine, emit_le]
  rfl

theorem editLine_insertByte (b : Byte) (hle : s.le.cur ≤ s.le.len) :
    editLine (insertByte b s) = (editLine s).take s.le.cur ++ [b] ++ (editLine s).drop s.le.cur := by
  rw [← bufInserted_slice b hle, insertByte_eq, editLine_emit]
  rfl

theorem exec_leInsert_of_room (b : Byte) (h : s.le.len ≠ s.cfg.maxLen - 1) :
    exec (.leInsert b) s = .next (insertByte b s) := congrArg _ (typePrintable_of_room b h)

theorem exec_leOverflow_of_full (b : Byte) (h : s.le.len = s.cfg.maxLen - 1) :
    exec (.leOverflow b) s = .next (emit (s.cfg.msgOverflow ++ s.cfg.prompt)
      { s with le.len := 0, le.cur := 0, le.hdepth := 0, le.esc := 0 }) := by
  rw [emit_append]
  exact congrArg _ (if_pos (lineFull_iff.2 h))

/-! ## The cursor keys -/

/-- An edit of the editor's state after an emission can be done before it. -/
theorem emit_edit (l : List Byte) (s : State) (f : LineEditor → LineEditor) :
    { emit l s with le := f (emit l s).le } = emit l { s with le := f s.le } := by
  rw [emit_withLe, emit_le]

/-- The cursor moved after an echo in Normal. -/
theorem emit_then_cursor (l : List Byte) (s : State) (cur : Nat) :
    { emit l (setEsc 0 s) with le.cur := cur } = emit l { s with le.esc := 0, le.cur := cur } :=
  emit_edit l (setEsc 0 s) fun le => { le with cur := cur }

theorem exec_leCurRight_of_lt (h : s.le.cur < s.le.len) :
    exec .leCurRight s = .next (emit [s.le.buf.read s.le.cur] { s with le.esc := 0, le.cur := s.le.cur + 1 }) :=
  congrArg _ ((if_pos h).trans (emit_then_cursor _ _ _))

theorem exec_leCurLeft_of_pos (h : 0 < s.le.cur) :
    exec .leCurLeft s = .next (emit [0x08] { s with le.esc := 0, le.cur := s.le.cur - 1 }) :=
  congrArg _ ((if_pos h).trans (emit_then_cursor _ _ _))

end

end Sys2Proof.Machine

open Sys2Proof Sys2Proof.Machine

/-- Settles O49: each row is a change of the escape state, or none. -/
theorem escapeBytesMoveOnlyTheEscapeState : Obligations.EscapeBytesMoveOnlyTheEscapeState :=
  fun _ _ => ⟨rfl, rfl, rfl, rfl, rfl⟩

/-- Settles O51: at a cursor past 0 the tail is written one cell to the left, and the line's last cell is zeroed. -/
theorem backspaceDeletesBeforeTheCursor : Obligations.BackspaceDeletesBeforeTheCursor := by
  intro b s hinv
  obtain ⟨-, hle, -⟩ := hinv.leInv.line_bounds
  exact ⟨exec_leBackspace_of_cur_zero b, fun hcur => ⟨bufBackspaced s, bufBackspaced_slice hcur hle,
    bufBackspaced_vacated s, fun _ => bufBackspaced_beyond hcur hle, exec_leBackspace_of_cur_ne_zero b hcur⟩⟩

/-- Settles O52: the tail is written one cell to the right, and the byte in the cell it left. -/
theorem insertPutsTheByteAtTheCursor : Obligations.InsertPutsTheByteAtTheCursor := by
  intro b s hinv hroom
  obtain ⟨-, hle, -⟩ := hinv.leInv.line_bounds
  refine ⟨bufInserted b s, bufInserted_slice b hle, fun _ => bufInserted_beyond b hle, ?_⟩
  rw [exec_leInsert_of_room b hroom, insertByte_eq]

/-- Settles O58: the line after INSERT is the old one with the byte between its halves, and BACKSPACE joins them. -/
theorem backspaceUndoesInsert : Obligations.BackspaceUndoesInsert := by
  intro s b c hinv hroom
  obtain ⟨-, hle, -⟩ := hinv.leInv.line_bounds
  have htle := insertByte_le b s
  have hcur : (insertByte b s).le.cur ≠ 0 := by simp [htle]
  have hlen : (insertByte b s).le.cur ≤ (insertByte b s).le.len := by simpa [htle] using hle
  have htake : ((editLine s).take s.le.cur).length = s.le.cur := by
    rw [List.length_take, editLine_length, Nat.min_eq_left hle]
  have hhead : ((editLine s).take s.le.cur ++ [b]).length = s.le.cur + 1 := by
    rw [List.length_append, htake]
    rfl
  refine ⟨_, _, exec_leInsert_of_room b hroom, exec_leBackspace_of_cur_ne_zero c hcur, ?_, ?_, ?_⟩
  · rw [editLine_emit]
    calc (bufBackspaced (insertByte b s)).slice 0 ((insertByte b s).le.len - 1)
      _ = (editLine (insertByte b s)).take s.le.cur ++ (editLine (insertByte b s)).drop (s.le.cur + 1) := by
          rw [bufBackspaced_slice hcur hlen, htle]
          rfl
      _ = editLine s := by
          rw [editLine_insertByte b hle, List.drop_left' hhead, List.append_assoc, List.take_left' htake,
            List.take_append_drop]
  · rw [emit_le, htle]
    rfl
  · rw [emit_le, htle]
    rfl

/-- Settles O53: OVERFLOW's row on a full line, its two texts in one emission. -/
theorem overflowDiscardsTheLine : Obligations.OverflowDiscardsTheLine := fun b _ => exec_leOverflow_of_full b

/-- Settles O56: each key below its bound, and at it. -/
theorem cursorKeysMoveOneCell : Obligations.CursorKeysMoveOneCell := fun _ =>
  ⟨exec_leCurRight_of_lt, fun h => congrArg _ (if_neg (Nat.not_lt.2 h)), exec_leCurLeft_of_pos,
    fun h => congrArg _ (if_neg (Nat.not_lt.2 (Nat.le_of_eq h)))⟩

end

section
/-! The history (42_line_editor.md R268, R269, R273, R274, R276): browsing it puts an entry in the line, and HIST_RD
reads one byte of it. -/

namespace Sys2Proof.Machine

/-! ## Browsing -/

section
variable {s : State}

/-- `LE.buf` after LOAD_ENTRY(j) (42_line_editor.md R274). -/
def bufLoaded (j : Nat) (s : State) : Memory := s.le.buf.writeBytes 0 (histLine j s)

theorem bufLoaded_slice (j : Nat) (s : State) : (bufLoaded j s).slice 0 (histLen j s) = histLine j s := by
  conv_lhs => rw [← histLine_length]
  exact Memory.slice_writeBytes _ _ _

theorem bufLoaded_beyond (j : Nat) (s : State) {a : Nat} (ha : histLen j s ≤ a) :
    (bufLoaded j s).read a = s.le.buf.read a :=
  Memory.read_writeBytes_of_ge _ _ (by rwa [histLine_length, Nat.zero_add])

/-- LOAD_ENTRY after an emission: one emission, then the entry in the line. -/
theorem loadEntry_emit (j : Nat) (l : List Byte) (s : State) :
    loadEntry j (emit l s)
      = emit (l ++ histLine j s) { s with le.buf := bufLoaded j s, le.len := histLen j s, le.cur := histLen j s } := by
  have hline : histLine j (emit l s) = histLine j s := by simp only [histLine, histMem, histLen, emit_le]
  have hlen : histLen j (emit l s) = histLen j s := by rw [histLen, emit_le]; rfl
  rw [loadEntry, hline, hlen, emit_append, bufLoaded]
  exact congrArg (emit (histLine j s)) (emit_edit l s fun le =>
    { le with buf := le.buf.writeBytes 0 (histLine j s), len := histLen j s, cur := histLen j s })

/-- CLEAR_LINE in Normal and a step to browse depth d. -/
theorem clearLine_then_depth (s : State) (d : Nat) :
    { clearLine (setEsc 0 s) with le.hdepth := d }
      = emit (clearBytes s.le.len) { s with le.esc := 0, le.hdepth := d } :=
  emit_edit (clearBytes s.le.len) (setEsc 0 s) fun le => { le with hdepth := d }

/-- The line cleared on the terminal and the entry of slot j put in its place, at browse depth d. -/
theorem clear_then_loadEntry (j d : Nat) (s : State) :
    loadEntry j { clearLine (setEsc 0 s) with le.hdepth := d }
      = emit (clearBytes s.le.len ++ histLine j s)
          { s with
            le.esc := 0
            le.hdepth := d
            le.buf := bufLoaded j s
            le.len := histLen j s
            le.cur := histLen j s } := by
  rw [clearLine_then_depth, loadEntry_emit]
  rfl

theorem actHistPrev_of_older (h : s.le.hdepth < s.le.hcount) :
    actHistPrev s
      = loadEntry (slotBack (s.le.hdepth + 1) s) { clearLine (setEsc 0 s) with le.hdepth := s.le.hdepth + 1 } :=
  if_pos h

theorem actHistNext_of_depth_one (h : s.le.hdepth = 1) :
    actHistNext s = emit (clearBytes s.le.len) { s with le.esc := 0, le.hdepth := 0, le.len := 0, le.cur := 0 } := by
  have hdepth : s.le.hdepth - 1 = 0 := by rw [h]
  have hnext : actHistNext s
      = { clearLine (setEsc 0 s) with le.hdepth := s.le.hdepth - 1, le.len := 0, le.cur := 0 } :=
    (if_neg (by omega)).trans (if_pos h)
  rw [hnext, hdepth]
  exact emit_edit (clearBytes s.le.len) (setEsc 0 s) fun le => { le with hdepth := 0, len := 0, cur := 0 }

theorem actHistNext_of_two_le (h : 2 ≤ s.le.hdepth) :
    actHistNext s
      = loadEntry (slotBack (s.le.hdepth - 1) s) { clearLine (setEsc 0 s) with le.hdepth := s.le.hdepth - 1 } :=
  (if_neg (by omega)).trans (if_neg (by omega))

end

/-! ## HIST_RD -/

/-- A two-byte payload, field by field (30_encoding.md R116, R118). -/
theorem responseWord_payload2 (st : Status) (y z : Byte) :
    responseWord st (payload2 y z) = statusCode st ++ (0 : BitVec 12) ++ y ++ z := by
  change statusCode st ++ ((0 : BitVec 12) ++ y ++ z) = _
  simp only [BitVec.append_assoc', BitVec.cast_eq]

theorem responseWord_range_payload2 (y z : Byte) :
    responseWord .range (payload2 y z) = (0x3 : BitVec 4) ++ (0 : BitVec 12) ++ y ++ z := responseWord_payload2 _ y z

/-- Under status OK the upper half is 0. -/
theorem responseWord_ok_payload2 (y z : Byte) : responseWord .ok (payload2 y z) = (0 : BitVec 16) ++ y ++ z := by
  rw [responseWord_payload2]
  rfl

section
variable {a d : Byte} {s : State}

theorem exec_histRd_of_too_old (ha : s.le.hcount ≤ a.toNat) : exec (.histRd a d) s = .next (answer 0x30000000 s) :=
  if_pos ha

theorem exec_histRd_of_past_end (ha : a.toNat < s.le.hcount) (hd : histLen (slotBack (1 + a.toNat) s) s ≤ d.toNat) :
    exec (.histRd a d) s = .next (answer ((0x3 : BitVec 4) ++ (0 : BitVec 12)
      ++ BitVec.ofNat 8 (histLen (slotBack (1 + a.toNat) s) s) ++ (0 : BitVec 8)) s) := by
  rw [← responseWord_range_payload2]
  exact (if_neg (Nat.not_le.2 ha)).trans (if_pos hd)

theorem exec_histRd_of_stored (ha : a.toNat < s.le.hcount) (hd : d.toNat < histLen (slotBack (1 + a.toNat) s) s) :
    exec (.histRd a d) s = .next (answer ((0 : BitVec 16) ++ BitVec.ofNat 8 (histLen (slotBack (1 + a.toNat) s) s)
      ++ (histMem (slotBack (1 + a.toNat) s) s).read d.toNat) s) := by
  rw [← responseWord_ok_payload2]
  exact (if_neg (Nat.not_le.2 ha)).trans (if_neg (Nat.not_le.2 hd))

end

end Sys2Proof.Machine

open Sys2Proof Sys2Proof.Machine

/-- Settles O54: the clear and the entry are one emission, and the entry's bytes replace the line's. -/
theorem histPrevLoadsTheOlderEntry : Obligations.HistPrevLoadsTheOlderEntry := by
  intro s _
  refine ⟨fun h => congrArg _ (if_neg (Nat.not_lt.2 h)), fun h => ⟨bufLoaded _ s, bufLoaded_slice _ s,
    fun _ => bufLoaded_beyond _ s, ?_⟩⟩
  exact congrArg Host.Outcome.next ((actHistPrev_of_older h).trans (clear_then_loadEntry _ _ s))

/-- Settles O55: by the depth, 0, 1 or more. -/
theorem histNextLoadsTheNewerEntry : Obligations.HistNextLoadsTheNewerEntry := by
  intro s _
  refine ⟨fun h => congrArg _ (if_pos h), fun h => congrArg Host.Outcome.next (actHistNext_of_depth_one h), fun h =>
    ⟨bufLoaded _ s, bufLoaded_slice _ s, fun _ => bufLoaded_beyond _ s, ?_⟩⟩
  exact congrArg Host.Outcome.next ((actHistNext_of_two_le h).trans (clear_then_loadEntry _ _ s))

/-- Settles O57: an age past the oldest entry, an index past the entry's end, and a byte of the entry. -/
theorem histRdReadsOneByte : Obligations.HistRdReadsOneByte := fun _ _ _ =>
  ⟨exec_histRd_of_too_old, exec_histRd_of_past_end, exec_histRd_of_stored⟩

end

section
/-! ENTER (42_line_editor.md R262, R275): the line committed, handed to the dispatcher, tokenized and executed. -/

namespace Sys2Proof.Machine

/-! ## The name a token is -/

theorem matchName_eq_some_iff {table : List (List Byte)} {t : List Byte} {i : Nat} :
    matchName table t = some i ↔ FirstNamed table t i := by
  rw [matchName, List.findIdx?_eq_some_iff_getElem]
  simp only [decide_eq_true_eq, FirstNamed, List.getElem?_eq_some_iff]
  constructor
  · rintro ⟨hi, heq, hlt⟩
    exact ⟨⟨hi, heq⟩, fun j hj hjt => hlt j hj (List.getElem?_eq_some_iff.1 hjt).2⟩
  · rintro ⟨⟨hi, heq⟩, hlt⟩
    exact ⟨hi, heq, fun j hj hjt => hlt j hj (List.getElem?_eq_some_iff.2 ⟨hj.trans hi, hjt⟩)⟩

theorem matchName_eq_none_iff {table : List (List Byte)} {t : List Byte} :
    matchName table t = none ↔ ∀ i, ¬ FirstNamed table t i := by
  simp only [Option.eq_none_iff_forall_ne_some, ne_eq, matchName_eq_some_iff]

section
variable {s : State}

/-! ## The history commit -/

/-- The edit line is the newest history entry, which ENTER does not commit again (42_line_editor.md R262). -/
abbrev EqualsNewest (s : State) : Prop := 0 < s.le.hcount ∧ histLine (slotBack 1 s) s = editLine s

theorem isDuplicate_iff : isDuplicate s = true ↔ EqualsNewest s := by
  simp only [isDuplicate, Bool.and_eq_true, decide_eq_true_eq, beq_iff_eq, and_assoc]
  refine and_congr_right fun _ => ⟨fun ⟨hlen, heq⟩ => ?_, fun heq => ?_⟩
  · rwa [histLine, hlen]
  · have hlen : histLen (slotBack 1 s) s = s.le.len := by rw [← histLine_length, heq, editLine_length]
    exact ⟨hlen, by rwa [histLine, hlen] at heq⟩

/-- ENTER's test for the commit. -/
theorem commits_iff : (decide (0 < s.le.len) && !isDuplicate s) = true ↔ ¬ (s.le.len = 0 ∨ EqualsNewest s) := by
  rw [not_or, ← isDuplicate_iff, Bool.and_eq_true, decide_eq_true_eq, Nat.pos_iff_ne_zero, Bool.not_eq_true',
    Bool.not_eq_true]

theorem commitLine_of_skipped (h : s.le.len = 0 ∨ EqualsNewest s) : commitLine s = s :=
  if_neg fun hc => commits_iff.1 hc h

theorem commitLine_of_new (hlen : s.le.len ≠ 0) (hnew : ¬ EqualsNewest s) : commitLine s = histCommit s :=
  if_pos (commits_iff.2 (not_or.2 ⟨hlen, hnew⟩))

theorem commitLine_cases (s : State) :
    commitLine s = s ∨ (s.le.len ≠ 0 ∧ ¬ EqualsNewest s ∧ commitLine s = histCommit s) := by
  by_cases h : s.le.len = 0 ∨ EqualsNewest s
  · exact .inl (commitLine_of_skipped h)
  · obtain ⟨hlen, hnew⟩ := not_or.1 h
    exact .inr ⟨hlen, hnew, commitLine_of_new hlen hnew⟩

/-- The commit moves only the history. -/
theorem commitLine_touches (s : State) :
    commitLine s = { s with
      le.hist := (commitLine s).le.hist
      le.hlen := (commitLine s).le.hlen
      le.hw := (commitLine s).le.hw
      le.hcount := (commitLine s).le.hcount } := by
  rcases commitLine_cases s with h | ⟨-, -, h⟩
  · rw [h]
  · rw [h]
    rfl

theorem commitLine_le (s : State) :
    (commitLine s).le = if decide (0 < s.le.len) && !isDuplicate s then (histCommit s).le else s.le := apply_ite _ _ _ _

theorem isDuplicate_emit (l : List Byte) (s : State) : isDuplicate (emit l s) = isDuplicate s := by
  simp only [isDuplicate, histLen, histMem, slotBack, editLine, emit_le, emit_cfg]

theorem commitLine_le_emit (l : List Byte) (s : State) : (commitLine (emit l s)).le = (commitLine s).le := by
  rw [commitLine_le, commitLine_le, isDuplicate_emit]
  simp only [histCommit_le, histMem, editLine, emit_le, emit_cfg]

theorem histMem_histCommit_same (h : s.le.hw < s.le.hist.length) :
    histMem s.le.hw (histCommit s) = (histMem s.le.hw s).writeBytes 0 (editLine s) := by
  simp [histMem, h]

theorem histLen_histCommit_same (h : s.le.hw < s.le.hlen.length) : histLen s.le.hw (histCommit s) = s.le.len := by
  simp [histLen, h]

theorem histMem_histCommit_other {j : Nat} (h : j ≠ s.le.hw) : histMem j (histCommit s) = histMem j s := by
  simp [histMem, List.getElem?_set_ne h.symm]

theorem histLen_histCommit_other {j : Nat} (h : j ≠ s.le.hw) : histLen j (histCommit s) = histLen j s := by
  simp [histLen, List.getElem?_set_ne h.symm]

/-- The committed line is the entry at the write index. -/
theorem histLine_histCommit_same (hhist : s.le.hw < s.le.hist.length) (hhlen : s.le.hw < s.le.hlen.length) :
    histLine s.le.hw (histCommit s) = editLine s := by
  rw [histLine, histMem_histCommit_same hhist, histLen_histCommit_same hhlen, ← editLine_length]
  exact Memory.slice_writeBytes _ _ _

theorem histLine_histCommit_other {j : Nat} (h : j ≠ s.le.hw) : histLine j (histCommit s) = histLine j s := by
  rw [histLine, histMem_histCommit_other h, histLen_histCommit_other h, histLine]

/-! ## The line handed over and tokenized -/

/-- The tokens of the edit line that ENTER keeps. -/
def enterTokens (s : State) : List (Nat × Nat) := (scanTokens (editLine s) 0 none).take s.cfg.maxTok

/-- ENTER up to its EXECUTE: the newline emitted, the line committed, handed over and tokenized. -/
def enteredState (s : State) : State := tokenize (handLine (commitLine (emit s.cfg.newline s)))

theorem editLine_commitLine_emit (l : List Byte) (s : State) : editLine (commitLine (emit l s)) = editLine s := by
  rw [commitLine_touches]
  exact editLine_emit l s

theorem keptTokens_handLine (l : List Byte) (s : State) :
    keptTokens (handLine (commitLine (emit l s))) = enterTokens s := by
  have hcfg : (handLine (commitLine (emit l s))).cfg = s.cfg := by
    rw [handLine_cfg, commitLine_touches]
    exact emit_cfg l s
  rw [keptTokens, handLine_dispatchLine, editLine_commitLine_emit, hcfg, enterTokens]

theorem enteredState_le (s : State) :
    (enteredState s).le = { (commitLine s).le with hdepth := 0, len := 0, cur := 0 } := by
  rw [enteredState, tokenize_le, handLine_le, commitLine_le_emit]

theorem enteredState_dp (s : State) :
    (enteredState s).dp = { s.dp with
      dline := s.dp.dline.writeBytes 0 (editLine s)
      dlen := s.le.len
      argc := (enterTokens s).length
      tokStart := (enterTokens s).map Prod.fst ++ s.dp.tokStart.drop (enterTokens s).length
      tokLen := (enterTokens s).map Prod.snd ++ s.dp.tokLen.drop (enterTokens s).length } := by
  have hlen : (commitLine (emit s.cfg.newline s)).le.len = s.le.len := by
    rw [commitLine_le_emit, commitLine_touches]
  rw [enteredState, tokenize_dp, keptTokens_handLine, handLine_dp, commitLine_dp, emit_dp, editLine_commitLine_emit,
    hlen]
  simp only [overlay, List.length_map]

theorem enteredState_cfg (s : State) : (enteredState s).cfg = s.cfg := by
  rw [enteredState, tokenize_cfg, handLine_cfg, commitLine_touches]
  exact emit_cfg _ s

theorem enteredState_touches (s : State) :
    enteredState s = { emit s.cfg.newline s with le := (enteredState s).le, dp := (enteredState s).dp } := by
  unfold enteredState
  rw [commitLine_touches]
  rfl

/-- A token's bytes are the edit line's. -/
theorem tokenBytes_enteredState {k : Nat} {p : Nat × Nat} (h : (enterTokens s)[k]? = some p) :
    tokenBytes k (enteredState s) = s.le.buf.slice p.1 p.2 := by
  obtain ⟨hk, rfl⟩ := List.getElem?_eq_some_iff.1 h
  have hend := scanTokens_end_le (editLine s) 0 none (by simp) _ (List.mem_of_mem_take (List.getElem_mem hk))
  rw [editLine_length, Nat.zero_add] at hend
  have hstart : tokStart k (enteredState s) = (enterTokens s)[k].1 := by
    rw [tokStart, enteredState_dp]
    simp [List.getElem?_append_left, hk]
  have hlen : tokLen k (enteredState s) = (enterTokens s)[k].2 := by
    rw [tokLen, enteredState_dp]
    simp [List.getElem?_append_left, hk]
  rw [tokenBytes, hstart, hlen, enteredState_dp]
  refine Memory.slice_congr fun i _ hi => ?_
  rw [Memory.read_writeBytes, if_pos (Nat.zero_le i), editLine, Memory.slice_getElem?, if_pos (by omega)]
  simp

theorem map_tokenBytes_enteredState (s : State) :
    (List.range (enterTokens s).length).map (fun k => tokenBytes k (enteredState s))
      = tokenTexts s.le.buf (enterTokens s) := by
  refine List.ext_getElem (by simp [tokenTexts]) fun k hk _ => ?_
  have hk : k < (enterTokens s).length := by simpa using hk
  simp only [List.getElem_map, List.getElem_range, tokenTexts]
  exact tokenBytes_enteredState (List.getElem?_eq_getElem hk)

/-! ## EXECUTE and the prompt -/

/-- The table index of the name that the line's first token is, if there is a first token and it is a name. -/
def enterCommand (s : State) : Option Nat :=
  (enterTokens s).head?.bind fun p => matchName s.cfg.cmdTable (s.le.buf.slice p.1 p.2)

theorem enterCommand_of_no_token (h : enterTokens s = []) : enterCommand s = none := by
  rw [enterCommand, h]
  rfl

theorem enterCommand_of_token {st ln : Nat} {rest : List (Nat × Nat)} (h : enterTokens s = (st, ln) :: rest) :
    enterCommand s = matchName s.cfg.cmdTable (s.le.buf.slice st ln) := by
  rw [enterCommand, h]
  rfl

theorem enterCommand_of_named {st ln i : Nat} {rest : List (Nat × Nat)} (h : enterTokens s = (st, ln) :: rest)
    (hi : FirstNamed s.cfg.cmdTable (s.le.buf.slice st ln) i) : enterCommand s = some i :=
  (enterCommand_of_token h).trans (matchName_eq_some_iff.2 hi)

/-- Without a first token that is a name there is no command. -/
theorem enterCommand_eq_none (h : ∀ st ln rest i, enterTokens s = (st, ln) :: rest →
    ¬ FirstNamed s.cfg.cmdTable (s.le.buf.slice st ln) i) : enterCommand s = none := by
  rcases htok : enterTokens s with _ | ⟨⟨st, ln⟩, rest⟩
  · exact enterCommand_of_no_token htok
  · exact (enterCommand_of_token htok).trans (matchName_eq_none_iff.2 fun i => h st ln rest i htok)

/-- What ENTER emits after the newline: the prompt, unless a command is handed off, and before it the diagnostic if
there is a token. -/
def enterTail (s : State) : List Byte :=
  if enterTokens s = [] then s.cfg.prompt
  else if enterCommand s = none then s.cfg.msgUnknown ++ s.cfg.prompt
  else []

theorem enterTail_of_no_token (h : enterTokens s = []) : enterTail s = s.cfg.prompt := if_pos h

theorem enterTail_of_unknown (htok : enterTokens s ≠ []) (hcmd : enterCommand s = none) :
    enterTail s = s.cfg.msgUnknown ++ s.cfg.prompt := (if_neg htok).trans (if_pos hcmd)

theorem enterTail_of_command {i : Nat} (h : enterCommand s = some i) : enterTail s = [] := by
  have htok : enterTokens s ≠ [] := fun hnil => by simp [enterCommand_of_no_token hnil] at h
  rw [enterTail, if_neg htok, if_neg (by simp [h])]

theorem matchName_enteredState (h : enterTokens s ≠ []) :
    matchName s.cfg.cmdTable (tokenBytes 0 (enteredState s)) = enterCommand s := by
  obtain ⟨⟨st, ln⟩, rest, htok⟩ := List.exists_cons_of_ne_nil h
  rw [enterCommand_of_token htok, tokenBytes_enteredState (p := (st, ln)) (by rw [htok]; rfl)]

/-- The state with the command handed to the host, if there is one. -/
def withEntered (cmd : Option Nat) (tokens : List (List Byte)) (s : State) : State :=
  match cmd with
  | none => s
  | some i => withCommand true i tokens s

theorem withEntered_touches (cmd : Option Nat) (tokens : List (List Byte)) (s : State) :
    withEntered cmd tokens s = { s with
      dp := { s.dp with
        pending := (withEntered cmd tokens s).dp.pending
        cmdIndex := (withEntered cmd tokens s).dp.cmdIndex
        fromLe := (withEntered cmd tokens s).dp.fromLe }
      g.handoffs := (withEntered cmd tokens s).g.handoffs } := by
  cases cmd <;> rfl

/-- The hand-off of EXECUTE on the entered line. -/
theorem handOff_enteredState (i : Nat) (s : State) :
    handOff true i (enteredState s) = withCommand true i (tokenTexts s.le.buf (enterTokens s)) (enteredState s) := by
  have hargc : (enteredState s).dp.argc = (enterTokens s).length := by rw [enteredState_dp]
  have hlen : (tokenTexts s.le.buf (enterTokens s)).length = (enterTokens s).length := List.length_map _
  rw [handOff, withCommand, hargc, hlen, map_tokenBytes_enteredState]

/-- ENTER: the entered state, its command handed off if there is one, and the rest of the emission. -/
theorem actEnter_eq (s : State) :
    actEnter s = emit (enterTail s)
      (withEntered (enterCommand s) (tokenTexts s.le.buf (enterTokens s)) (enteredState s)) := by
  have hcfg : (handLine (commitLine (emit s.cfg.newline s))).cfg = s.cfg := enteredState_cfg s
  have hkept := keptTokens_handLine s.cfg.newline s
  by_cases htok : enterTokens s = []
  · have hexec := execute_of_no_token (fromLe := true) (hkept.trans htok)
    rw [enterTail_of_no_token htok, enterCommand_of_no_token htok, actEnter, hexec]
    exact congrArg (fun c : Config => emit c.prompt (enteredState s)) (enteredState_cfg s)
  have hmatch := matchName_enteredState htok
  have hkeep := htok
  rw [← hkept] at hkeep
  cases hcmd : enterCommand s with
  | none =>
    have hexec := execute_of_unknown (fromLe := true) hkeep (by rw [hcfg]; exact hmatch.trans hcmd)
    rw [enterTail_of_unknown htok hcmd, emit_append, actEnter, hexec, hcfg]
    refine congrArg (fun c : Config => emit c.prompt (emit s.cfg.msgUnknown (enteredState s))) ?_
    rw [emit_cfg, tokenize_cfg, hcfg]
  | some i =>
    have hexec := execute_of_match (fromLe := true) hkeep (by rw [hcfg]; exact hmatch.trans hcmd)
    rw [enterTail_of_command hcmd, actEnter, hexec]
    exact handOff_enteredState i s

theorem enteredState_handoffs (s : State) : (enteredState s).g.handoffs = s.g.handoffs := by
  rw [enteredState_touches]
  exact emit_handoffs _ s

theorem actEnter_of_no_command (h : enterCommand s = none) : actEnter s = emit (enterTail s) (enteredState s) := by
  rw [actEnter_eq, h]
  rfl

theorem actEnter_of_command {i : Nat} (h : enterCommand s = some i) :
    actEnter s = withCommand true i (tokenTexts s.le.buf (enterTokens s)) (enteredState s) := by
  rw [actEnter_eq, h, enterTail_of_command h]
  rfl

/-! ## What ENTER leaves behind -/

theorem actEnter_le (s : State) : (actEnter s).le = { (commitLine s).le with hdepth := 0, len := 0, cur := 0 } := by
  rw [actEnter_eq, emit_le, withEntered_touches, enteredState_le]

/-- The dispatcher has the line and its tokens; the hand-off's own fields are those of `withEntered`. -/
theorem actEnter_dp (s : State) :
    (actEnter s).dp = { (actEnter s).dp with
      dline := s.dp.dline.writeBytes 0 (editLine s)
      dlen := s.le.len
      argc := (enterTokens s).length
      tokStart := (enterTokens s).map Prod.fst ++ s.dp.tokStart.drop (enterTokens s).length
      tokLen := (enterTokens s).map Prod.snd ++ s.dp.tokLen.drop (enterTokens s).length } := by
  rw [actEnter_eq, emit_dp, withEntered_touches, enteredState_dp]

/-- Nothing but the editor, the dispatcher and the hand-off log changes, and the emission is one string. -/
theorem actEnter_touches (s : State) :
    actEnter s = { emit (s.cfg.newline ++ enterTail s) s with
      le := (actEnter s).le
      dp := (actEnter s).dp
      g.handoffs := (actEnter s).g.handoffs } := by
  rw [actEnter_eq, emit_le, emit_dp, emit_handoffs, emit_append, ← emit_update, withEntered_touches,
    enteredState_touches]

theorem dispatchLine_actEnter (s : State) : dispatchLine (actEnter s) = editLine s := by
  rw [dispatchLine, actEnter_dp, ← editLine_length]
  exact Memory.slice_writeBytes _ _ _

theorem histMem_congr {t u : State} (h : t.le.hist = u.le.hist) (j : Nat) : histMem j t = histMem j u := by
  rw [histMem, h, histMem]

theorem histLen_congr {t u : State} (h : t.le.hlen = u.le.hlen) (j : Nat) : histLen j t = histLen j u := by
  rw [histLen, h, histLen]

/-- The write index is a slot. -/
theorem LeInv.hw_lt {c : Config} {le : LineEditor} (h : LeInv c le) :
    le.hw < le.hist.length ∧ le.hw < le.hlen.length ∧ le.hw < c.hist := by
  obtain ⟨-, -, -, hhist, -, hhlen, -, hhw, -⟩ := h
  exact ⟨hhist.symm ▸ hhw, hhlen.symm ▸ hhw, hhw⟩

/-- ENTER of a line that is empty or equal to the newest entry leaves the history alone. -/
theorem actEnter_history_of_skipped (h : s.le.len = 0 ∨ EqualsNewest s) :
    (actEnter s).le.hist = s.le.hist ∧ (actEnter s).le.hlen = s.le.hlen ∧ (actEnter s).le.hw = s.le.hw
      ∧ (actEnter s).le.hcount = s.le.hcount := by
  rw [actEnter_le, commitLine_of_skipped h]
  exact ⟨rfl, rfl, rfl, rfl⟩

/-- ENTER of any other line stores it at the write index. -/
theorem actEnter_history_of_new (hinv : LeInv s.cfg s.le) (hlen : s.le.len ≠ 0)
    (hnew : ¬ EqualsNewest s) :
    histLine s.le.hw (actEnter s) = editLine s
      ∧ (∀ j, j ≠ s.le.hw → histMem j (actEnter s) = histMem j s ∧ histLen j (actEnter s) = histLen j s)
      ∧ (∀ a, s.le.len ≤ a → (histMem s.le.hw (actEnter s)).read a = (histMem s.le.hw s).read a)
      ∧ (actEnter s).le.hw = (s.le.hw + 1) % s.cfg.hist
      ∧ (actEnter s).le.hcount = min (s.le.hcount + 1) s.cfg.hist := by
  obtain ⟨hhist, hhlen, -⟩ := hinv.hw_lt
  have hle := actEnter_le s
  rw [commitLine_of_new hlen hnew] at hle
  have hmem : ∀ j, histMem j (actEnter s) = histMem j (histCommit s) := histMem_congr (by rw [hle])
  have hlens : ∀ j, histLen j (actEnter s) = histLen j (histCommit s) := histLen_congr (by rw [hle])
  refine ⟨?_, fun j hj => ⟨?_, ?_⟩, fun a ha => ?_, by rw [hle, histCommit_le], by rw [hle, histCommit_le]⟩
  · rw [histLine, hmem, hlens]
    exact histLine_histCommit_same hhist hhlen
  · rw [hmem, histMem_histCommit_other hj]
  · rw [hlens, histLen_histCommit_other hj]
  · rw [hmem, histMem_histCommit_same hhist]
    exact Memory.read_writeBytes_of_ge _ _ (by rwa [editLine_length, Nat.zero_add])

theorem actEnter_handOff_of_no_command (h : enterCommand s = none) :
    (actEnter s).dp.pending = s.dp.pending ∧ (actEnter s).dp.cmdIndex = s.dp.cmdIndex
      ∧ (actEnter s).dp.fromLe = s.dp.fromLe ∧ (actEnter s).g.handoffs = s.g.handoffs := by
  rw [actEnter_of_no_command h, emit_dp, enteredState_dp, emit_handoffs]
  exact ⟨rfl, rfl, rfl, enteredState_handoffs s⟩

theorem actEnter_handOff_of_command {i : Nat} (h : enterCommand s = some i) :
    (actEnter s).dp.pending = true ∧ (actEnter s).dp.cmdIndex = i ∧ (actEnter s).dp.fromLe = true
      ∧ (actEnter s).g.handoffs = s.g.handoffs
        ++ [{ index := i, argc := (enterTokens s).length, tokens := tokenTexts s.le.buf (enterTokens s) }] := by
  rw [actEnter_of_command h, ← enteredState_handoffs s,
    ← (List.length_map _ : (tokenTexts s.le.buf (enterTokens s)).length = (enterTokens s).length)]
  exact ⟨rfl, rfl, rfl, rfl⟩

end

end Sys2Proof.Machine

open Sys2Proof Sys2Proof.Machine

/-- Settles O50: ENTER is the entered state, a hand-off if its first token is a name, and one emission after it. -/
theorem enterFinalizesTheLine : Obligations.EnterFinalizesTheLine := by
  intro s ts hinv hts
  obtain rfl : ts = enterTokens s := hts
  refine ⟨actEnter s, s.cfg.newline ++ enterTail s, rfl, dispatchLine_actEnter s, by rw [actEnter_dp], fun a ha => ?_,
    by rw [actEnter_le], by rw [actEnter_le], by rw [actEnter_le], by rw [actEnter_le, commitLine_touches],
    by rw [actEnter_le, commitLine_touches], actEnter_history_of_skipped, actEnter_history_of_new hinv.leInv,
    by rw [actEnter_dp], by rw [actEnter_dp], by rw [actEnter_dp], fun hnil => ?_,
    fun st ln rest htok hno => ?_, fun hno => actEnter_handOff_of_no_command (enterCommand_eq_none hno),
    fun st ln rest i htok hi => ?_, actEnter_touches s⟩
  · rw [actEnter_dp]
    exact Memory.read_writeBytes_of_ge _ _ (by rwa [editLine_length, Nat.zero_add])
  · rw [enterTail_of_no_token hnil]
  · have hcmd := (enterCommand_of_token htok).trans (matchName_eq_none_iff.2 hno)
    rw [enterTail_of_unknown (List.ne_nil_of_mem (htok ▸ List.mem_cons_self)) hcmd, List.append_assoc]
  · have hcmd := enterCommand_of_named htok hi
    rw [enterTail_of_command hcmd, List.append_nil]
    exact ⟨rfl, actEnter_handOff_of_command hcmd⟩

end

section
/-! The byte step that LE_FEED and POLL run (42_line_editor.md R250 to R252): its action and code, and the escape state
it leaves. -/

namespace Sys2Proof.Machine

/-! ## The selected action -/

theorem esc_cases {e : BitVec 2} (h : e ≠ 3) : e = 0 ∨ e = 1 ∨ e = 2 := by
  revert e
  decide

/-- The actions of Normal that stay there (30_encoding.md R125). -/
def normalActs : List LeAct := [.enter, .backspace, .insert, .overflow, .ignore]

/-- The actions that end an escape sequence (30_encoding.md R125). -/
def endingActs : List LeAct := [.escDrop, .histPrev, .histNext, .curRight, .curLeft, .csiDrop]

section
variable (full : Bool)

theorem decodeLeAct_normal {b : Byte} (h : b ≠ 0x1B) : decodeLeAct full ((0 : BitVec 2) ++ b) ∈ normalActs := by
  simp only [decodeLeAct, leEscOf_append, leByteOf_append, if_true, if_neg h]
  split_ifs <;> decide

theorem decodeLeAct_escape {b : Byte} (h : b ≠ 0x5B) : decodeLeAct full ((1 : BitVec 2) ++ b) ∈ endingActs := by
  have hdrop : decodeLeAct full ((1 : BitVec 2) ++ b) = .escDrop := by
    simp only [decodeLeAct, leEscOf_append, leByteOf_append, if_neg h]
    rfl
  rw [hdrop]
  decide

theorem decodeLeAct_bracket (b : Byte) : decodeLeAct full ((2 : BitVec 2) ++ b) ∈ endingActs := by
  have hNormal : ¬ (2 : BitVec 2) = 0 := by decide
  have hEscape : ¬ (2 : BitVec 2) = 1 := by decide
  simp only [decodeLeAct, leEscOf_append, leByteOf_append, if_neg hNormal, if_neg hEscape, if_true]
  split_ifs <;> decide

/-- What a byte selects, outside escape state 3. -/
theorem decodeLeAct_cases {e : BitVec 2} (h : e ≠ 3) (b : Byte) :
    (e = 0 ∧ b = 0x1B ∧ decodeLeAct full (e ++ b) = .escEnter)
      ∨ (e = 1 ∧ b = 0x5B ∧ decodeLeAct full (e ++ b) = .csiEnter)
      ∨ (¬ (e = 0 ∧ b = 0x1B) ∧ ¬ (e = 1 ∧ b = 0x5B)
        ∧ (e = 0 ∧ decodeLeAct full (e ++ b) ∈ normalActs ∨ decodeLeAct full (e ++ b) ∈ endingActs)) := by
  rcases esc_cases h with rfl | rfl | rfl
  · by_cases hESC : b = 0x1B
    · exact .inl ⟨rfl, hESC, hESC ▸ rfl⟩
    · exact .inr (.inr ⟨fun hb => hESC hb.2, by simp, .inl ⟨rfl, decodeLeAct_normal full hESC⟩⟩)
  · by_cases hCSI : b = 0x5B
    · exact .inr (.inl ⟨rfl, hCSI, hCSI ▸ rfl⟩)
    · exact .inr (.inr ⟨by simp, fun hb => hCSI hb.2, .inr (decodeLeAct_escape full hCSI)⟩)
  · exact .inr (.inr ⟨by simp, by simp, .inr (decodeLeAct_bracket full b)⟩)

/-- The escape state after an action taken in escape state e (42_line_editor.md R260 to R272). -/
def escAfter (full : Bool) (e : BitVec 2) : LeAct → BitVec 2
  | .escEnter => 1
  | .csiEnter => 2
  | .escDrop | .csiDrop | .histPrev | .histNext | .curRight | .curLeft => 0
  | .insert | .overflow => if full then 0 else e
  | .ignore | .enter | .backspace | .illegalEscState => e

/-- Only ESC in Normal and `[` in Escape select an action that leaves an escape state other than 0. -/
theorem escAfter_decodeLeAct {e : BitVec 2} (h : e ≠ 3) (b : Byte) :
    escAfter full e (decodeLeAct full (e ++ b))
      = if e = 0 ∧ b = 0x1B then 1 else if e = 1 ∧ b = 0x5B then 2 else 0 := by
  have hnormal : ∀ full, ∀ act ∈ normalActs, escAfter full 0 act = 0 := by decide
  have hending : ∀ full e, ∀ act ∈ endingActs, escAfter full e act = 0 := by decide
  rcases decodeLeAct_cases full h b with ⟨he, hb, hact⟩ | ⟨he, hb, hact⟩ | ⟨hESC, hCSI, hact⟩
  · rw [hact, if_pos ⟨he, hb⟩, escAfter]
  · rw [hact, if_neg (by simp [he]), if_pos ⟨he, hb⟩, escAfter]
  · rw [if_neg hESC, if_neg hCSI]
    rcases hact with ⟨rfl, hact⟩ | hact
    · exact hnormal full _ hact
    · exact hending full e _ hact

/-- Only escape state 3 has no action (30_encoding.md R126). -/
theorem exists_actionCode {e : BitVec 2} (h : e ≠ 3) (b : Byte) :
    ∃ code, actionCode (decodeLeAct full (e ++ b)) = some code := by
  have hsome : ∀ act ∈ normalActs ++ endingActs, (actionCode act).isSome := by decide
  rcases decodeLeAct_cases full h b with ⟨-, -, hact⟩ | ⟨-, -, hact⟩ | ⟨-, -, hact⟩
  · exact ⟨1, by rw [hact, actionCode]⟩
  · exact ⟨7, by rw [hact, actionCode]⟩
  · refine Option.isSome_iff_exists.1 (hsome _ (List.mem_append.2 ?_))
    exact hact.imp_left And.right

end

/-! ## What an action leaves of the editor's state -/

/-- `le'` is `le` with the escape state e and perhaps another line, cursor or browse depth: the history is the same. -/
def LineEdit (e : BitVec 2) (le le' : LineEditor) : Prop :=
  le' = { le with esc := e, buf := le'.buf, len := le'.len, cur := le'.cur, hdepth := le'.hdepth }

theorem LineEdit.history {e : BitVec 2} {le le' : LineEditor} (h : LineEdit e le le') :
    le'.hist = le.hist ∧ le'.hlen = le.hlen ∧ le'.hw = le.hw ∧ le'.hcount = le.hcount := by
  rw [h]
  exact ⟨rfl, rfl, rfl, rfl⟩

section
variable (s : State)

theorem lineEdit_actBackspace : LineEdit s.le.esc s.le (actBackspace s).le := by
  by_cases hcur : s.le.cur = 0
  · rw [actBackspace, if_pos hcur]
    rfl
  · rw [actBackspace, if_neg hcur, emit_le]
    rfl

theorem lineEdit_typePrintable (b : Byte) :
    LineEdit (if lineFull s then 0 else s.le.esc) s.le (typePrintable b s).le := by
  unfold typePrintable
  split
  · rw [discardLine, emit_le, emit_le]
    rfl
  · rw [insertByte_le]
    rfl

/-- LOAD_ENTRY after a step of the browse depth. -/
theorem lineEdit_loadEntry (j d : Nat) :
    LineEdit 0 s.le (loadEntry j { clearLine (setEsc 0 s) with le.hdepth := d }).le := by
  rw [clear_then_loadEntry, emit_le]
  rfl

theorem lineEdit_actHistPrev : LineEdit 0 s.le (actHistPrev s).le := by
  by_cases hmore : s.le.hdepth < s.le.hcount
  · rw [actHistPrev_of_older hmore]
    exact lineEdit_loadEntry s _ _
  · rw [actHistPrev, if_neg hmore]
    rfl

theorem lineEdit_actHistNext : LineEdit 0 s.le (actHistNext s).le := by
  by_cases hzero : s.le.hdepth = 0
  · rw [actHistNext, if_pos hzero]
    rfl
  by_cases hone : s.le.hdepth = 1
  · rw [actHistNext_of_depth_one hone, emit_le]
    rfl
  · rw [actHistNext_of_two_le (by omega)]
    exact lineEdit_loadEntry s _ _

theorem lineEdit_actCurRight : LineEdit 0 s.le (actCurRight s).le := by
  unfold actCurRight
  split
  · rw [emit_then_cursor, emit_le]
    rfl
  · rfl

theorem lineEdit_actCurLeft : LineEdit 0 s.le (actCurLeft s).le := by
  unfold actCurLeft
  split
  · rw [emit_then_cursor, emit_le]
    rfl
  · rfl

/-- Every action but ENTER leaves the history alone. -/
theorem lineEdit_actEffect (b : Byte) {act : LeAct} (h : act ≠ .enter) :
    LineEdit (escAfter (lineFull s) s.le.esc act) s.le (actEffect b s act).le := by
  cases act with
  | enter => exact absurd rfl h
  | ignore | escEnter | escDrop | csiEnter | csiDrop | illegalEscState => rfl
  | backspace => exact lineEdit_actBackspace s
  | insert | overflow => exact lineEdit_typePrintable s b
  | histPrev => exact lineEdit_actHistPrev s
  | histNext => exact lineEdit_actHistNext s
  | curRight => exact lineEdit_actCurRight s
  | curLeft => exact lineEdit_actCurLeft s

theorem actEffect_esc (b : Byte) (act : LeAct) :
    (actEffect b s act).le.esc = escAfter (lineFull s) s.le.esc act := by
  by_cases hact : act = .enter
  · subst hact
    exact (congrArg LineEditor.esc (actEnter_le s)).trans (by rw [commitLine_touches]; rfl)
  · rw [lineEdit_actEffect s b hact]

end

/-! ## LE_FEED and POLL -/

section
variable {s : State}

theorem leActOf_eq (b : Byte) (s : State) :
    leActOf b s = decodeLeAct (decide (s.le.len = s.cfg.maxLen - 1)) (s.le.esc ++ b) := by
  rw [leActOf, lineFull, beq_eq_decide, Config.lineCap]

/-- The byte step outside escape state 3. -/
theorem exists_leStep (h : s.le.esc ≠ 3) (b : Byte) :
    ∃ code, actionCode (leActOf b s) = some code ∧ leStep b s = (code, actEffect b s (leActOf b s)) := by
  obtain ⟨code, hcode⟩ := exists_actionCode (lineFull s) h b
  exact ⟨code, hcode, leStep_of_action hcode⟩

theorem exec_leFeed_of_pending (hp : s.dp.pending = true) (d : Byte) :
    exec (.leFeed d) s = .next (answer 0x20000000 s) := if_pos hp

theorem exec_poll_of_pending (hp : s.dp.pending = true) : exec .poll s = .next (answer 0x20000000 s) := if_pos hp

theorem exec_poll_of_empty (hp : s.dp.pending = false) (hview : s.rx.leadR s.cfg.rx = 0) :
    exec .poll s = .next (answer 0x10000000 s) := by
  have hpop : popRx s = (none, s) := popRx_of_none (congrArg PopResult.byte (Fifo.pop_of_empty hview))
  simp only [exec, execPoll, hp, hpop]
  rfl

/-- No request changes the configuration. -/
theorem outsideRequests_cfg : OutsideRequests State.cfg where
  emitByte := emitByte_cfg
  popRx s := by rw [popRx_eq]
  update _ _ _ _ _ _ := rfl

end

end Sys2Proof.Machine

open Sys2Proof Sys2Proof.Machine

/-- Settles O45: outside escape state 3 the byte step is the selected row with its code, and the request answers it. -/
theorem feedRunsTheSelectedAction : Obligations.FeedRunsTheSelectedAction := by
  refine ⟨fun s d hp => exec_leFeed_of_pending hp d, fun s d hp hesc => ?_⟩
  obtain ⟨code, hcode, hstep⟩ := exists_leStep hesc d
  refine ⟨leActOf d s, code, _, leActOf_eq d s, hcode, exec_toInstr _ d s, ?_⟩
  rw [exec_leFeed_accepted hp, responseWord_payloadAct_zero, hstep]

/-- Settles O46: the pop leaves the editor as it was, so the byte selects the same row after it. -/
theorem pollFeedsThePoppedByte : Obligations.PollFeedsThePoppedByte := by
  refine ⟨fun s hp => exec_poll_of_pending hp, fun s hp => ⟨exec_poll_of_empty hp, fun hview hesc => ?_⟩⟩
  obtain ⟨v, u, hpop⟩ := exists_popRx_of_leadR_ne_zero hview
  obtain ⟨code, hcode, hstep⟩ := exists_leStep (s := u) (by rwa [popRx_le hpop]) v
  refine ⟨v, u, leActOf v u, code, _, hpop, ?_, hcode, exec_toInstr _ v u, ?_⟩
  · rw [leActOf_eq, popRx_le hpop, outsideRequests_cfg.popped hpop]
  · rw [exec_poll_popped hp hpop, responseWord_payloadAct, hstep]

/-- Settles O48: the escape state after the selected action, by the table. -/
theorem editorReturnsToNormal : Obligations.EditorReturnsToNormal := by
  intro s d hp hesc
  obtain ⟨code, -, hstep⟩ := exists_leStep hesc d
  refine ⟨_, exec_leFeed_accepted hp d, ?_⟩
  rw [answer_le, hstep, actEffect_esc]
  exact escAfter_decodeLeAct (lineFull s) hesc d

end

section
/-! The history's property (42_line_editor.md R277 (e)): a commit keeps adjacent entries different, and nothing else in
a step touches the history. -/

namespace Sys2Proof.Machine

/-! ## Slots of the ring -/

section
variable {m a : Nat}

/-- One step on, one more step back. -/
theorem subMod_succ_mod (hm : 0 < m) (a n : Nat) : subMod ((a + 1) % m) (n + 1) m = subMod a n m := by
  refine subMod_eq_of_add_modEq (subMod_lt hm a n) ?_
  calc subMod a n m + (n + 1)
      = subMod a n m + n + 1 := (Nat.add_assoc _ _ _).symm
    _ ≡ a + 1 [MOD m] := (subMod_add_modEq hm a n).add_right 1
    _ ≡ (a + 1) % m [MOD m] := (Nat.mod_modEq _ _).symm

theorem subMod_zero (h : a < m) : subMod a 0 m = a := subMod_eq_of_add_modEq h rfl

/-- Fewer than m steps back never come around. -/
theorem subMod_ne_self {n : Nat} (hn : 0 < n) (hnm : n < m) : subMod a n m ≠ a := fun heq => by
  have hsum := subMod_add_modEq (hn.trans hnm) a n
  rw [heq] at hsum
  have hzero : n ≡ 0 [MOD m] := Nat.ModEq.add_left_cancel' a hsum
  exact hn.ne' (hzero.eq_of_lt_of_lt hnm (hn.trans hnm))

end

/-! ## A commit -/

section
variable {s : State}

/-- After a commit every slot is one step further back. -/
theorem slotBack_histCommit (hpos : 0 < s.cfg.hist) (k : Nat) : slotBack (k + 1) (histCommit s) = slotBack k s :=
  subMod_succ_mod hpos s.le.hw k

/-- A committed line that differs from the newest entry keeps adjacent entries different. -/
theorem HistoryDistinct.histCommit (hinv : LeInv s.cfg s.le) (h : HistoryDistinct s)
    (hnew : ¬ EqualsNewest s) : HistoryDistinct (histCommit s) := by
  obtain ⟨hhist, hhlen, hhw⟩ := hinv.hw_lt
  have hpos : 0 < s.cfg.hist := Nat.zero_lt_of_lt hhw
  intro k _ hk
  have hcount : k + 1 < min (s.le.hcount + 1) s.cfg.hist := hk
  have hold : ∀ n, 0 < n → n ≤ k + 1 → histLine (slotBack n s) (Machine.histCommit s) = histLine (slotBack n s) s :=
    fun n hn hnk => histLine_histCommit_other (subMod_ne_self hn (by omega))
  rw [slotBack_histCommit hpos, slotBack_histCommit hpos, hold (k + 1) k.succ_pos le_rfl]
  cases k with
  | zero =>
    rw [slotBack, subMod_zero hhw, histLine_histCommit_same hhist hhlen]
    exact fun heq => hnew ⟨by omega, heq.symm⟩
  | succ k =>
    rw [hold (k + 1) k.succ_pos (Nat.le_succ _)]
    exact h k (List.mem_range.2 (by omega)) (by omega)

theorem HistoryDistinct.commitLine (hinv : LeInv s.cfg s.le) (h : HistoryDistinct s) :
    HistoryDistinct (commitLine s) := by
  rcases commitLine_cases s with heq | ⟨-, hnew, heq⟩
  · rwa [heq]
  · rw [heq]
    exact h.histCommit hinv hnew

/-! ## Everything else -/

/-- The property reads only the history. -/
theorem HistoryDistinct.congr {t : State} {e : BitVec 2} (h : HistoryDistinct s) (hcfg : t.cfg = s.cfg)
    (hle : LineEdit e s.le t.le) : HistoryDistinct t := by
  obtain ⟨hhist, hhlen, hhw, hcount⟩ := hle.history
  simpa only [HistoryDistinct, histLine, histMem, histLen, slotBack, hcfg, hhist, hhlen, hhw, hcount] using h

theorem HistoryDistinct.of_le_eq {t : State} (h : HistoryDistinct s) (hcfg : t.cfg = s.cfg) (hle : t.le = s.le) :
    HistoryDistinct t := h.congr (e := s.le.esc) hcfg (by rw [hle]; rfl)

theorem HistoryDistinct.actEffect (hinv : LeInv s.cfg s.le) (h : HistoryDistinct s) (b : Byte) (act : LeAct) :
    HistoryDistinct (actEffect b s act) := by
  have hcfg := outsideRequests_cfg.actEffect b s act
  by_cases hact : act = .enter
  · subst hact
    have hle : LineEdit (Machine.commitLine s).le.esc (Machine.commitLine s).le (Machine.actEnter s).le := by
      rw [actEnter_le]
      rfl
    exact (h.commitLine hinv).congr (hcfg.trans (outsideRequests_cfg.commitLine s).symm) hle
  · exact h.congr hcfg (lineEdit_actEffect s b hact)

theorem HistoryDistinct.leStep (hinv : LeInv s.cfg s.le) (h : HistoryDistinct s) (b : Byte) :
    HistoryDistinct (leStep b s).2 := by
  obtain ⟨n, heq⟩ := leStep_snd s b
  rw [heq]
  exact (h.actEffect hinv b _).of_le_eq rfl rfl

theorem execute_le (fromLe : Bool) (s : State) : (execute fromLe s).2.le = s.le := by rw [execute_touches]

theorem complete_le (s : State) : (complete s).2.le = s.le := by
  rcases complete_snd_cases s with ⟨l, h⟩ | ⟨i, -, h⟩ | ⟨i, -, h⟩ <;> rw [h]
  · exact emit_le l s
  · exact setDispatchLine_le _ s
  · exact execute_le _ _

theorem finishCommand_le (s : State) : (finishCommand s).le = s.le := by
  unfold finishCommand
  dsimp only
  split
  · exact emit_le _ _
  · rfl

theorem HistoryDistinct.request {i : Instr} {u : State} (hinv : Inv s) (h : HistoryDistinct s)
    (heff : RequestEffect s i u) : HistoryDistinct u := by
  have hcfg : u.cfg = s.cfg := by
    rcases outsideRequests_cfg.request heff with heq | ⟨_, _, -, -, heq⟩
    · exact heq
    · exact heq
  cases heff with
  | fed d => exact h.leStep hinv.leInv d
  | polled _ hpop =>
    exact (h.of_le_eq (outsideRequests_cfg.popped hpop) (popRx_le hpop)).leStep (hinv.popRx hpop).leInv _
  | popped hpop => exact h.of_le_eq hcfg (popRx_le hpop)
  | polledNone _ hpop => exact h.of_le_eq hcfg (popRx_le hpop)
  | sent d => exact h.of_le_eq hcfg (emit_le [d] s)
  | executed => exact h.of_le_eq hcfg (execute_le false s)
  | completed => exact h.of_le_eq hcfg (complete_le s)
  | finished => exact h.of_le_eq hcfg (finishCommand_le s)
  | unchanged | lineCleared | lineExtended | reinitialized => exact h.of_le_eq hcfg rfl

theorem EngineEffect.cfg_eq {u : State} (heff : EngineEffect s u) : u.cfg = s.cfg := by
  rcases heff with rfl | ⟨byte, t, hpop, hu⟩
  · rfl
  · have ht : t.cfg = s.cfg := by
      rw [popTx_eq] at hpop
      obtain rfl := congrArg Prod.snd hpop
      rfl
    rcases hu with rfl | rfl | ⟨v, rfl⟩ <;> exact ht

theorem HistoryDistinct.runTick {tick : Tick} {t : State} (hinv : Inv s) (h : HistoryDistinct s)
    (hrun : runTick tick s = .next t) : HistoryDistinct t := by
  cases tick with
  | core req =>
    have hphases : HistoryDistinct (corePhases s) := h.of_le_eq rfl rfl
    cases req with
    | none =>
      cases hrun
      exact hphases
    | some w =>
      obtain ⟨st, p, u, heff, hexec⟩ := exec_request (corePhases s) (decodeReq_format w)
      obtain rfl : respond st p u = t := Host.Outcome.next.inj (hexec.symm.trans hrun)
      exact (hphases.request hinv.corePhases heff).of_le_eq rfl rfl
  | rx byte =>
    cases byte with
    | none =>
      cases hrun
      exact h.of_le_eq rfl rfl
    | some b =>
      obtain rfl := Host.Outcome.next.inj hrun
      rw [pushRx_eq]
      exact h.of_le_eq rfl rfl
  | tx done =>
    obtain ⟨u, hnext, heff⟩ := runTick_tx done s
    obtain rfl : u = t := Host.Outcome.next.inj (hnext.symm.trans hrun)
    have hle : u.le = s.le := congrArg (fun f => f.2.1) heff.frame.1
    exact h.of_le_eq heff.cfg_eq hle

end

end Sys2Proof.Machine

open Sys2Proof.Machine

/-- Settles O15: a commit keeps adjacent entries different, and all else in a tick leaves the history alone. -/
theorem everyStepKeepsHistoryDistinct : Obligations.EveryStepKeepsHistoryDistinct := by
  intro s t hinv h hstep
  obtain ⟨env, draws, hrun⟩ := exists_runTick_of_step hstep
  have hinvF : Inv { s with env := env, draws := draws } := hinv
  have hF : HistoryDistinct { s with env := env, draws := draws } := h.of_le_eq rfl rfl
  exact hF.runTick hinvF hrun

end

section
/-! The requests that load and read the dispatch line, read its tokens, and read or end a hand-off (43_dispatch.md R320
to R322, R350, R351, R355): each by its cases. -/

namespace Sys2Proof.Machine

section
variable {s : State} {a : Byte}

/-! ## LINE_WR and LINE_RD -/

theorem exec_lineWrClr_of_pending (hp : s.dp.pending = true) : exec .lineWrClr s = .next (answer 0x20000000 s) :=
  if_pos hp

theorem exec_lineWrClr_accepted (hp : s.dp.pending = false) :
    exec .lineWrClr s = .next (answer 0x00000000 { s with dp.dlen := 0 }) := if_neg (by simp [hp])

theorem responseWord_range_zext28 (b : Byte) :
    responseWord .range (zext28 b) = (0x3 : BitVec 4) ++ (0 : BitVec 20) ++ b := responseWord_zext28 .range b

theorem responseWord_full_zext28 (b : Byte) :
    responseWord .full (zext28 b) = (0x6 : BitVec 4) ++ (0 : BitVec 20) ++ b := responseWord_zext28 .full b

/-- The RANGE case of LINE_WR.PUT comes before the look at a pending command. -/
theorem exec_lineWrPut_of_two_le (ha : 2 ≤ a.toNat) (d : Byte) :
    exec (.lineWrPut a d) s
      = .next (answer ((0x3 : BitVec 4) ++ (0 : BitVec 20) ++ BitVec.ofNat 8 s.dp.dlen) s) := by
  rw [← responseWord_range_zext28]
  exact if_pos ha

theorem exec_lineWrPut_of_pending (ha : a.toNat < 2) (hp : s.dp.pending = true) (d : Byte) :
    exec (.lineWrPut a d) s = .next (answer 0x20000000 s) := (if_neg (Nat.not_le.2 ha)).trans (if_pos hp)

/-- LINE_WR.PUT past its two refusals. -/
theorem exec_lineWrPut_accepted (ha : a.toNat < 2) (hp : s.dp.pending = false) (d : Byte) :
    exec (.lineWrPut a d) s
      = if s.dp.dlen = s.cfg.lineCap then .next (respond .full (zext28 (byteField s.dp.dlen)) s)
        else .next (respond .ok (zext28 (byteField (s.dp.dlen + 1)))
          { s with dp.dline := s.dp.dline.write s.dp.dlen d, dp.dlen := s.dp.dlen + 1 }) :=
  (if_neg (Nat.not_le.2 ha)).trans (if_neg (by simp [hp]))

theorem exec_lineWrPut_of_full (ha : a.toNat < 2) (hp : s.dp.pending = false) (hfull : s.dp.dlen = s.cfg.lineCap)
    (d : Byte) :
    exec (.lineWrPut a d) s
      = .next (answer ((0x6 : BitVec 4) ++ (0 : BitVec 20) ++ BitVec.ofNat 8 s.dp.dlen) s) := by
  rw [← responseWord_full_zext28]
  exact (exec_lineWrPut_accepted ha hp d).trans (if_pos hfull)

theorem exec_lineWrPut_of_room (ha : a.toNat < 2) (hp : s.dp.pending = false) (hroom : s.dp.dlen ≠ s.cfg.lineCap)
    (d : Byte) :
    exec (.lineWrPut a d) s
      = .next (answer ((0 : BitVec 24) ++ BitVec.ofNat 8 (s.dp.dlen + 1))
          { s with dp.dline := s.dp.dline.write s.dp.dlen d, dp.dlen := s.dp.dlen + 1 }) := by
  rw [exec_lineWrPut_accepted ha hp, if_neg hroom, respond_eq_answer, responseWord_ok_zext28, byteField]

theorem exec_lineRd_of_past_end {d : Byte} (h : s.dp.dlen ≤ d.toNat) :
    exec (.lineRd d) s
      = .next (answer ((0x3 : BitVec 4) ++ (0 : BitVec 12) ++ BitVec.ofNat 8 s.dp.dlen ++ (0 : BitVec 8)) s) := by
  rw [← responseWord_range_payload2]
  exact if_pos h

theorem exec_lineRd_of_lt {d : Byte} (h : d.toNat < s.dp.dlen) :
    exec (.lineRd d) s
      = .next (answer ((0 : BitVec 16) ++ BitVec.ofNat 8 s.dp.dlen ++ s.dp.dline.read d.toNat) s) := by
  rw [← responseWord_ok_payload2]
  exact if_neg (Nat.not_le.2 h)

/-! ## TOK_RD and CMD_STAT -/

/-- A refused TOK_RD tells argc alone (30_encoding.md R118). -/
theorem responseWord_range_payload3 (x : Byte) :
    responseWord .range (payload3 x 0 0) = (0x3 : BitVec 4) ++ (0 : BitVec 4) ++ x ++ (0 : BitVec 16) := by
  change (0x3 : BitVec 4) ++ ((0 : BitVec 4) ++ x ++ (0 : BitVec 8) ++ (0 : BitVec 8)) = _
  simp only [BitVec.append_assoc', BitVec.cast_eq]
  exact BitVec.append_assoc

theorem exec_tokRd_of_past_end {d : Byte} (h : s.dp.argc ≤ d.toNat) :
    exec (.tokRd d) s
      = .next (answer ((0x3 : BitVec 4) ++ (0 : BitVec 4) ++ BitVec.ofNat 8 s.dp.argc ++ (0 : BitVec 16)) s) := by
  rw [← responseWord_range_payload3]
  exact if_pos h

theorem exec_tokRd_of_lt {d : Byte} (h : d.toNat < s.dp.argc) :
    exec (.tokRd d) s
      = .next (answer ((0 : BitVec 8) ++ BitVec.ofNat 8 s.dp.argc ++ BitVec.ofNat 8 (s.dp.tokLen.getD d.toNat 0)
          ++ BitVec.ofNat 8 (s.dp.tokStart.getD d.toNat 0)) s) := by
  rw [← responseWord_payload3]
  exact if_neg (Nat.not_le.2 h)

/-- The word CMD_STAT answers, field by field (43_dispatch.md R351). -/
def cmdStatWord (s : State) : Word :=
  (0 : BitVec 6) ++ BitVec.ofBool s.dp.fromLe ++ BitVec.ofBool s.dp.pending ++ (0 : BitVec 8)
    ++ byteField s.dp.argc ++ byteField s.dp.cmdIndex

theorem responseWord_cmdStat (s : State) :
    responseWord .ok ((0 : BitVec 2) ++ BitVec.ofBool s.dp.fromLe ++ BitVec.ofBool s.dp.pending ++ (0 : BitVec 8)
      ++ byteField s.dp.argc ++ byteField s.dp.cmdIndex) = cmdStatWord s := by
  change (0 : BitVec 4) ++ ((0 : BitVec 2) ++ BitVec.ofBool s.dp.fromLe ++ BitVec.ofBool s.dp.pending ++ (0 : BitVec 8)
    ++ byteField s.dp.argc ++ byteField s.dp.cmdIndex) = _
  simp only [BitVec.append_assoc', BitVec.cast_eq]
  rfl

theorem exec_cmdStat (s : State) : exec .cmdStat s = .next (answer (cmdStatWord s) s) := by
  rw [← responseWord_cmdStat]
  rfl

open BitVec in
theorem cmdStatWord_fields (s : State) :
    (cmdStatWord s).getLsbD 25 = s.dp.fromLe ∧ (cmdStatWord s).getLsbD 24 = s.dp.pending
      ∧ (cmdStatWord s).extractLsb' 8 8 = BitVec.ofNat 8 s.dp.argc
      ∧ (cmdStatWord s).extractLsb' 0 8 = BitVec.ofNat 8 s.dp.cmdIndex
      ∧ (cmdStatWord s).extractLsb' 16 8 = 0 ∧ (cmdStatWord s).extractLsb' 26 6 = 0 := by
  have hflags : ∀ i, (cmdStatWord s).getLsbD (i + 24)
      = ((0 : BitVec 6) ++ ofBool s.dp.fromLe ++ ofBool s.dp.pending).getLsbD i := fun i => by
    rw [cmdStatWord, getLsbD_append, if_neg (by omega), getLsbD_append, if_neg (by omega), getLsbD_append,
      if_neg (by omega)]
    rfl
  have hupper : ∀ i n, (cmdStatWord s).extractLsb' (i + 16) n
      = ((0 : BitVec 6) ++ ofBool s.dp.fromLe ++ ofBool s.dp.pending ++ (0 : BitVec 8)).extractLsb' i n := fun i n => by
    rw [cmdStatWord, extractLsb'_append_eq_of_le (by omega), extractLsb'_append_eq_of_le (by omega)]
    rfl
  refine ⟨(hflags 1).trans (getLsbD_concat_succ.trans getLsbD_concat_zero), (hflags 0).trans getLsbD_concat_zero,
    (extractLsb'_append_eq_of_le (by decide)).trans extractLsb'_append_eq_right, extractLsb'_append_eq_right,
    (hupper 0 8).trans extractLsb'_append_eq_right, (hupper 10 6).trans ?_⟩
  rw [extractLsb'_append_eq_of_le (by decide), extractLsb'_append_eq_of_le (by decide),
    extractLsb'_append_eq_of_le (by decide)]
  rfl

/-! ## CMD_DONE -/

theorem exec_cmdDone_of_idle (hp : s.dp.pending = false) : exec .cmdDone s = .next (answer 0x00000000 s) :=
  if_neg (by simp [hp])

theorem exec_cmdDone_of_pending (hp : s.dp.pending = true) :
    exec .cmdDone s = .next (answer 0x00000001 (finishCommand s)) := if_pos hp

/-- A hand-off that EXEC or TAB started has no prompt to emit. -/
theorem finishCommand_of_request (h : s.dp.fromLe = false) : finishCommand s = { s with dp.pending := false } :=
  if_neg (by simp [h])

/-- A hand-off that ENTER started has the prompt to emit that ENTER deferred. -/
theorem finishCommand_of_fromLe (h : s.dp.fromLe = true) :
    finishCommand s = emit s.cfg.prompt { s with dp.pending := false } := if_pos h

end

end Sys2Proof.Machine

open Sys2Proof Sys2Proof.Machine

/-- Settles O35: pending or not. -/
theorem lineWrClrEmptiesTheLine : Obligations.LineWrClrEmptiesTheLine :=
  fun _ => ⟨exec_lineWrClr_of_pending, exec_lineWrClr_accepted⟩

/-- Settles O36: the three refusals in their order, then the append, whose write leaves every other cell alone. -/
theorem lineWrPutAppendsOneByte : Obligations.LineWrPutAppendsOneByte := by
  intro a d s
  exact ⟨fun ha => exec_lineWrPut_of_two_le ha d, fun ha hp => exec_lineWrPut_of_pending ha hp d,
    fun ha hp hfull => exec_lineWrPut_of_full ha hp hfull d,
    fun ha hp hroom => ⟨_, Memory.read_write s.dp.dline s.dp.dlen d, exec_lineWrPut_of_room ha hp hroom d⟩⟩

/-- Settles O37: past the line's end or within it. -/
theorem lineRdReadsOneByte : Obligations.LineRdReadsOneByte :=
  fun _ _ => ⟨exec_lineRd_of_past_end, exec_lineRd_of_lt⟩

/-- Settles O38: past the last token or one of them. -/
theorem tokRdReadsOneToken : Obligations.TokRdReadsOneToken :=
  fun _ _ => ⟨exec_tokRd_of_past_end, exec_tokRd_of_lt⟩

/-- Settles O39: the fields of the one word CMD_STAT answers. -/
theorem cmdStatReadsTheHandOff : Obligations.CmdStatReadsTheHandOff :=
  fun s => ⟨cmdStatWord s, exec_cmdStat s, cmdStatWord_fields s⟩

/-- Settles O40: by whether a command is pending, and which side started it. -/
theorem cmdDoneEndsTheHandOff : Obligations.CmdDoneEndsTheHandOff := by
  intro s
  refine ⟨exec_cmdDone_of_idle, fun hp hreq => ?_, fun hp hle => ?_⟩
  · rw [exec_cmdDone_of_pending hp, finishCommand_of_request hreq]
  · rw [exec_cmdDone_of_pending hp, finishCommand_of_fromLe hle]

end

section
/-! The tokenizer (43_dispatch.md R331): its scan yields the line's maximal runs of bytes other than 0x20, by the run
that is open where the scan stands; and what of a token EXECUTE then reads. -/

namespace Sys2Proof.Machine

/-! ## Where the scan stands -/

/-- A run may start at `i`. -/
def StartsRun (l : List Byte) (i : Nat) : Prop := i = 0 ∨ l[i - 1]? = some space

/-- A run ends before `i`. -/
def EndsRun (l : List Byte) (i : Nat) : Prop := i = l.length ∨ l[i]? = some space

/-- The bytes from `st` up to `i` are the first of a run, or all of it. -/
structure OpenRun (l : List Byte) (st i : Nat) : Prop where
  nonempty : st < i
  no_space : ∀ j, st ≤ j → j < i → l[j]? ≠ some space
  starts : StartsRun l st

/-- What the scan knows at `i` of the bytes behind it. -/
def ScanAt (l : List Byte) (i : Nat) : Option Nat → Prop
  | none => StartsRun l i
  | some st => OpenRun l st i

/-- `ts` are the line's runs from `a` on, in order. -/
structure RunsFrom (l : List Byte) (a : Nat) (ts : List (Nat × Nat)) : Prop where
  is_run : ∀ p ∈ ts, OpenRun l p.1 (p.1 + p.2) ∧ EndsRun l (p.1 + p.2)
  start_ge : ∀ p ∈ ts, a ≤ p.1
  covers : ∀ i b, a ≤ i → l[i]? = some b → b ≠ space → ∃ p ∈ ts, p.1 ≤ i ∧ i < p.1 + p.2
  rising : ts.Pairwise fun p q => p.1 + p.2 < q.1

section
variable {l : List Byte} {i st : Nat} {c : Byte}

theorem EndsRun.le_length (h : EndsRun l i) : i ≤ l.length :=
  h.elim Nat.le_of_eq fun hi => (List.getElem?_eq_some_iff.1 hi).1.le

/-- A byte other than 0x20 opens a run. -/
theorem StartsRun.opens (h : StartsRun l i) (hi : l[i]? = some c) (hc : c ≠ space) : OpenRun l i (i + 1) where
  nonempty := i.lt_succ_self
  no_space j hlo hhi := by
    obtain rfl : j = i := by omega
    rw [hi]
    exact fun he => hc (Option.some.inj he)
  starts := h

/-- A byte other than 0x20 extends an open run. -/
theorem OpenRun.extend (h : OpenRun l st i) (hi : l[i]? = some c) (hc : c ≠ space) : OpenRun l st (i + 1) where
  nonempty := h.nonempty.trans i.lt_succ_self
  no_space j hlo hhi := by
    rcases Nat.lt_succ_iff_lt_or_eq.1 hhi with hlt | rfl
    · exact h.no_space j hlo hlt
    · rw [hi]
      exact fun he => hc (Option.some.inj he)
  starts := h.starts

theorem RunsFrom.nil (h : l.length ≤ i) : RunsFrom l i [] where
  is_run := by simp
  start_ge := by simp
  covers j b hj hb := absurd ((List.getElem?_eq_some_iff.1 hb).1) (by omega)
  rising := .nil

/-- No run starts at a 0x20. -/
theorem RunsFrom.skip {ts : List (Nat × Nat)} (hi : l[i]? = some space) (h : RunsFrom l (i + 1) ts) :
    RunsFrom l i ts where
  is_run := h.is_run
  start_ge p hp := Nat.le_of_succ_le (h.start_ge p hp)
  covers j b hj hb hne := by
    rcases hj.eq_or_lt with rfl | hlt
    · exact absurd (Option.some.inj (hb.symm.trans hi)) hne
    · exact h.covers j b hlt hb hne
  rising := h.rising

/-- A run that ends before `i`, and the runs past the byte that ends it. -/
theorem RunsFrom.cons {ts : List (Nat × Nat)} (hrun : OpenRun l st i) (hend : EndsRun l i)
    (h : RunsFrom l (i + 1) ts) : RunsFrom l st ((st, i - st) :: ts) := by
  have hi : st + (i - st) = i := Nat.add_sub_cancel' hrun.nonempty.le
  refine ⟨List.forall_mem_cons.2 ⟨?_, h.is_run⟩, List.forall_mem_cons.2 ⟨le_rfl, fun p hp => ?_⟩,
    fun j b hj hb hne => ?_, List.pairwise_cons.2 ⟨fun p hp => ?_, h.rising⟩⟩
  · rw [hi]
    exact ⟨hrun, hend⟩
  · exact (hrun.nonempty.trans (h.start_ge p hp)).le
  · rcases Nat.lt_trichotomy j i with hlt | rfl | hgt
    · exact ⟨_, List.mem_cons_self, hj, by rwa [hi]⟩
    · rcases hend with rfl | hspace
      · exact absurd (List.getElem?_eq_some_iff.1 hb).1 (lt_irrefl _)
      · exact absurd (Option.some.inj (hb.symm.trans hspace)) hne
    · obtain ⟨p, hp, hcov⟩ := h.covers j b hgt hb hne
      exact ⟨p, List.mem_cons_of_mem _ hp, hcov⟩
  · rw [hi]
    exact h.start_ge p hp

theorem RunsFrom.maximalRuns {ts : List (Nat × Nat)} (h : RunsFrom l 0 ts) : MaximalRuns l ts := by
  refine ⟨fun p hp => ?_, fun i b => h.covers i b (Nat.zero_le i), h.rising⟩
  obtain ⟨hrun, hend⟩ := h.is_run p hp
  exact ⟨Nat.pos_of_lt_add_right hrun.nonempty, hend.le_length, hrun.no_space, hrun.starts, hend⟩

/-! ## The scan -/

/-- The byte at which the scan stands, and the scan's next place. -/
theorem next_of_drop_eq_cons {rest : List Byte} (h : l.drop i = c :: rest) :
    l[i]? = some c ∧ l.drop (i + 1) = rest ∧ i + 1 ≤ l.length := by
  have hget : l[i]? = some c := by rw [← Nat.add_zero i, ← List.getElem?_drop, h, List.getElem?_cons_zero]
  refine ⟨hget, ?_, (List.getElem?_eq_some_iff.1 hget).1⟩
  rw [← List.tail_drop, h, List.tail_cons]

/-- From where the scan stands, it yields the open run and all after it. -/
theorem runsFrom_scanTokens {rest : List Byte} {start : Option Nat} (hrest : l.drop i = rest) (hi : i ≤ l.length)
    (h : ScanAt l i start) : RunsFrom l (start.getD i) (scanTokens rest i start) := by
  induction rest, i, start using scanTokens.induct with
  | case1 i => exact .nil (List.drop_eq_nil_iff.1 hrest)
  | case2 i st =>
    have hend : i = l.length := hi.antisymm (List.drop_eq_nil_iff.1 hrest)
    exact .cons h (.inl hend) (.nil (by omega))
  | case3 rest i ih =>
    obtain ⟨hget, hrest, hi⟩ := next_of_drop_eq_cons hrest
    rw [scanTokens, if_pos rfl]
    exact .skip hget (ih hrest hi (.inr hget))
  | case4 c rest i hc ih =>
    obtain ⟨hget, hrest, hi⟩ := next_of_drop_eq_cons hrest
    rw [scanTokens, if_neg hc]
    exact ih hrest hi (StartsRun.opens h hget hc)
  | case5 rest i st ih =>
    obtain ⟨hget, hrest, hi⟩ := next_of_drop_eq_cons hrest
    rw [scanTokens, if_pos rfl]
    exact .cons h (.inr hget) (ih hrest hi (.inr hget))
  | case6 c rest i st hc ih =>
    obtain ⟨hget, hrest, hi⟩ := next_of_drop_eq_cons hrest
    rw [scanTokens, if_neg hc]
    exact ih hrest hi (OpenRun.extend h hget hc)

theorem maximalRuns_scanTokens (l : List Byte) : MaximalRuns l (scanTokens l 0 none) := by
  have hstart : ScanAt l 0 none := Or.inl rfl
  exact (runsFrom_scanTokens rfl (Nat.zero_le _) hstart).maximalRuns

/-- An open run goes on to the next 0x20. -/
theorem scanTokens_append_of_open {w : List Byte} (hw : ∀ b ∈ w, b ≠ space) (rest : List Byte) (i st : Nat) :
    scanTokens (w ++ rest) i (some st) = scanTokens rest (i + w.length) (some st) := by
  induction w generalizing i with
  | nil => rfl
  | cons b w ih =>
    obtain ⟨hb, hw⟩ := List.forall_mem_cons.1 hw
    rw [List.cons_append, scanTokens, if_neg hb, ih hw, List.length_cons, Nat.add_right_comm, Nat.add_assoc]

/-- A word at the head of the line opens a run. -/
theorem scanTokens_append_of_word {w : List Byte} (hw : ∀ b ∈ w, b ≠ space) (hne : w ≠ []) (rest : List Byte)
    (i : Nat) : scanTokens (w ++ rest) i none = scanTokens rest (i + w.length) (some i) := by
  cases w with
  | nil => exact absurd rfl hne
  | cons b w =>
    obtain ⟨hb, hw⟩ := List.forall_mem_cons.1 hw
    rw [List.cons_append, scanTokens, if_neg hb, scanTokens_append_of_open hw, List.length_cons, Nat.add_right_comm,
      Nat.add_assoc]

end

/-! ## The tokens kept -/

section
variable {s : State}

theorem tokenize_eq_withTokens (s : State) : tokenize s = withTokens (keptTokens s) s := by
  simp only [tokenize, withTokens, overlay, List.length_map]

theorem tokStart_tokenize {k : Nat} {p : Nat × Nat} (h : (keptTokens s)[k]? = some p) :
    (tokenize s).dp.tokStart[k]? = some p.1 := by
  obtain ⟨hk, rfl⟩ := List.getElem?_eq_some_iff.1 h
  simp [overlay, List.getElem?_append_left, hk]

theorem tokLen_tokenize {k : Nat} {p : Nat × Nat} (h : (keptTokens s)[k]? = some p) :
    (tokenize s).dp.tokLen[k]? = some p.2 := by
  obtain ⟨hk, rfl⟩ := List.getElem?_eq_some_iff.1 h
  simp [overlay, List.getElem?_append_left, hk]

/-- The entries past the new ones stay. -/
theorem overlay_getElem?_of_le {new : List Nat} {k : Nat} (old : List Nat) (h : new.length ≤ k) :
    (overlay new old)[k]? = old[k]? := by
  rw [overlay, List.getElem?_append_right h, List.getElem?_drop, Nat.add_sub_cancel' h]

/-- A kept token's bytes are the dispatch line's. -/
theorem tokenBytes_tokenize {k : Nat} {p : Nat × Nat} (h : (keptTokens s)[k]? = some p) :
    tokenBytes k (tokenize s) = s.dp.dline.slice p.1 p.2 := by
  have hstart : tokStart k (tokenize s) = p.1 := by
    rw [tokStart, List.getD_eq_getElem?_getD, tokStart_tokenize h, Option.getD_some]
  have hlen : tokLen k (tokenize s) = p.2 := by
    rw [tokLen, List.getD_eq_getElem?_getD, tokLen_tokenize h, Option.getD_some]
  rw [tokenBytes, hstart, hlen, tokenize_dp]

/-- The hand-off of a tokenized line logs the kept tokens' bytes (43_dispatch.md R336). -/
theorem handOff_tokenize (fromLe : Bool) (i : Nat) (s : State) :
    handOff fromLe i (tokenize s)
      = withCommand fromLe i (tokenTexts s.dp.dline (keptTokens s)) (withTokens (keptTokens s) s) := by
  have htexts : (List.range (keptTokens s).length).map (fun k => tokenBytes k (tokenize s))
      = tokenTexts s.dp.dline (keptTokens s) := by
    refine List.ext_getElem (by simp [tokenTexts]) fun k hk _ => ?_
    have hk : k < (keptTokens s).length := by simpa using hk
    simp only [List.getElem_map, List.getElem_range, tokenTexts]
    exact tokenBytes_tokenize (List.getElem?_eq_getElem hk)
  have hcount : (tokenTexts s.dp.dline (keptTokens s)).length = (keptTokens s).length := List.length_map _
  rw [← tokenize_eq_withTokens, handOff, withCommand, hcount, ← htexts]
  rfl

end

end Sys2Proof.Machine
end

section
/-! EXEC (43_dispatch.md R330, R331, R336, R337): the line tokenized, then by its first token. -/

namespace Sys2Proof.Machine

section
variable {s : State}

/-! ## The answer -/

/-- The answer of EXEC and TAB, field by field, the code in the top byte (30_encoding.md R116, R118). -/
theorem responseWord_payloadCode {code : BitVec 4} {top : Byte} (h : (0 : BitVec 4) ++ code = top) (y z : Byte) :
    responseWord .ok (payloadCode code y z) = top ++ (0 : BitVec 8) ++ y ++ z := by
  change (0 : BitVec 4) ++ (code ++ (0 : BitVec 8) ++ y ++ z) = _
  simp only [BitVec.append_assoc', BitVec.cast_eq, ← h]

theorem execAnswer_noop (h : s.dp.argc = 0) : execAnswer .noop s = answer 0x00000000 s := by
  rw [execAnswer, h, if_neg (by decide)]
  rfl

theorem execAnswer_unknown (s : State) :
    execAnswer .unknown s
      = answer ((0x01 : BitVec 8) ++ (0 : BitVec 8) ++ BitVec.ofNat 8 s.dp.argc ++ (0 : BitVec 8)) s := by
  rw [execAnswer, if_neg (by decide), respond_eq_answer, responseWord_payloadCode (top := 0x01) rfl, byteField]

theorem execAnswer_dispatched (s : State) :
    execAnswer .dispatched s
      = answer ((0x02 : BitVec 8) ++ (0 : BitVec 8) ++ BitVec.ofNat 8 s.dp.argc ++ BitVec.ofNat 8 s.dp.cmdIndex) s := by
  rw [execAnswer, if_pos rfl, respond_eq_answer, responseWord_payloadCode (top := 0x02) rfl, byteField, byteField]

theorem exec_execLine_of_pending (hp : s.dp.pending = true) : exec .execLine s = .next (answer 0x20000000 s) :=
  if_pos hp

theorem exec_execLine_accepted (hp : s.dp.pending = false) :
    exec .execLine s = .next (execAnswer (execute false s).1 (execute false s).2) := if_neg (by simp [hp])

/-! ## The tokens -/

/-- Whatever EXECUTE does, the tokens are those of the tokenized line. -/
theorem execute_tokens (fromLe : Bool) (s : State) :
    (execute fromLe s).2.dp.argc = (keptTokens s).length
      ∧ (execute fromLe s).2.dp.tokStart = (tokenize s).dp.tokStart
      ∧ (execute fromLe s).2.dp.tokLen = (tokenize s).dp.tokLen := by
  rcases execute_snd_cases s fromLe with h | h | ⟨i, -, -, h⟩
  · rw [h]
    exact ⟨rfl, rfl, rfl⟩
  · rw [h, emit_dp]
    exact ⟨rfl, rfl, rfl⟩
  · rw [h]
    exact ⟨rfl, rfl, rfl⟩

/-! ## The outcomes -/

variable {st ln : Nat} {rest : List (Nat × Nat)}

theorem exec_execLine_of_no_token (hp : s.dp.pending = false) (h : keptTokens s = []) :
    exec .execLine s = .next (answer 0x00000000 (withTokens [] s)) := by
  have hargc : (tokenize s).dp.argc = 0 := congrArg List.length h
  rw [exec_execLine_accepted hp, execute_of_no_token h, execAnswer_noop hargc, tokenize_eq_withTokens, h]

/-- The name that EXECUTE looks up is the first token. -/
theorem matchName_tokenize (h : keptTokens s = (st, ln) :: rest) :
    matchName s.cfg.cmdTable (tokenBytes 0 (tokenize s)) = matchName s.cfg.cmdTable (s.dp.dline.slice st ln) := by
  rw [tokenBytes_tokenize (p := (st, ln)) (by rw [h]; rfl)]

theorem exec_execLine_of_unknown (hp : s.dp.pending = false) (h : keptTokens s = (st, ln) :: rest)
    (hno : ∀ i, ¬ FirstNamed s.cfg.cmdTable (s.dp.dline.slice st ln) i) :
    exec .execLine s
      = .next (answer ((0x01 : BitVec 8) ++ (0 : BitVec 8) ++ BitVec.ofNat 8 (keptTokens s).length ++ (0 : BitVec 8))
          (emit s.cfg.msgUnknown (withTokens (keptTokens s) s))) := by
  have hne : keptTokens s ≠ [] := by simp [h]
  have hexec := execute_of_unknown (fromLe := false) hne ((matchName_tokenize h).trans (matchName_eq_none_iff.2 hno))
  rw [exec_execLine_accepted hp, hexec, execAnswer_unknown, emit_dp, tokenize_dp, tokenize_eq_withTokens]

theorem exec_execLine_of_named {i : Nat} (hp : s.dp.pending = false) (h : keptTokens s = (st, ln) :: rest)
    (hi : FirstNamed s.cfg.cmdTable (s.dp.dline.slice st ln) i) :
    exec .execLine s
      = .next (answer ((0x02 : BitVec 8) ++ (0 : BitVec 8) ++ BitVec.ofNat 8 (keptTokens s).length ++ BitVec.ofNat 8 i)
          (withCommand false i (tokenTexts s.dp.dline (keptTokens s)) (withTokens (keptTokens s) s))) := by
  have hne : keptTokens s ≠ [] := by simp [h]
  have hexec := execute_of_match (fromLe := false) hne ((matchName_tokenize h).trans (matchName_eq_some_iff.2 hi))
  rw [exec_execLine_accepted hp, hexec, execAnswer_dispatched, ← handOff_tokenize, handOff_dp, tokenize_dp]

end

end Sys2Proof.Machine

open Sys2Proof Sys2Proof.Machine

/-- Settles O41: the scan's tokens are the maximal runs, and EXEC keeps the first K of them over the old entries. -/
theorem tokensAreTheFirstMaximalRuns : Obligations.TokensAreTheFirstMaximalRuns := by
  intro s hp
  obtain ⟨hargc, hstart, hlen⟩ := execute_tokens false s
  refine ⟨_, scanTokens (dispatchLine s) 0 none, exec_execLine_accepted hp, maximalRuns_scanTokens _, ?_⟩
  rw [execAnswer, respond_dp, hargc, hstart, hlen]
  refine ⟨List.length_take, fun k hk p hget => ?_, fun k hk => ?_⟩
  · have hkept : (keptTokens s)[k]? = some p := by
      rw [← hget]
      exact List.getElem?_take_of_lt (hk.trans_le (keptTokens_length_le s))
    exact ⟨tokStart_tokenize hkept, tokLen_tokenize hkept⟩
  · rw [tokenize_dp]
    exact ⟨overlay_getElem?_of_le _ (by rwa [List.length_map]), overlay_getElem?_of_le _ (by rwa [List.length_map])⟩

/-- Settles O42: pending, no token, a first token that is no name, and one that is. -/
theorem execRunsTheDispatchLine : Obligations.ExecRunsTheDispatchLine := by
  refine ⟨fun _ => exec_execLine_of_pending, fun s ts hp hts => ?_⟩
  obtain rfl : ts = keptTokens s := hts
  exact ⟨exec_execLine_of_no_token hp, fun _ _ _ => exec_execLine_of_unknown hp,
    fun _ _ _ _ => exec_execLine_of_named hp⟩

end

section
/-! TAB (43_dispatch.md R340 to R344): the partial that a name begins, and the names that extend the partial. -/

namespace Sys2Proof.Machine

/-! ## The names that begin the partial -/

section
variable {table : List (List Byte)} {p : List Byte} {i : Nat}

/-- The check that one string begins another, as `helpIndex` and `candidates` make it (R342, R343). -/
theorem take_eq_iff_prefix {l m : List Byte} : l.length ≤ m.length ∧ m.take l.length = l ↔ l <+: m :=
  ⟨fun h => List.prefix_iff_eq_take.2 h.2.symm, fun h => ⟨h.length_le, (List.prefix_iff_eq_take.1 h).symm⟩⟩

theorem helpIndex_eq_some_iff : helpIndex table p = some i ↔ FirstPrefixOf table p i := by
  rw [helpIndex, List.findIdx?_eq_some_iff_getElem]
  simp only [decide_eq_true_eq, take_eq_iff_prefix, FirstPrefixOf, List.getElem?_eq_some_iff]
  constructor
  · rintro ⟨hi, hpre, hlt⟩
    exact ⟨⟨_, ⟨hi, rfl⟩, hpre⟩, fun j hj _ ⟨_, hnm⟩ => hnm ▸ hlt j hj⟩
  · rintro ⟨⟨_, ⟨hi, rfl⟩, hpre⟩, hlt⟩
    exact ⟨hi, hpre, fun j hj => hlt j hj _ ⟨hj.trans hi, rfl⟩⟩

theorem helpIndex_eq_none (h : ∀ i, ¬ FirstPrefixOf table p i) : helpIndex table p = none :=
  Option.eq_none_iff_forall_ne_some.2 fun i hi => h i (helpIndex_eq_some_iff.1 hi)

/-- If some name begins the partial, one is the first that does. -/
theorem not_prefix_of_no_first (h : ∀ i, ¬ FirstPrefixOf table p i) {nm : List Byte} (hnm : nm ∈ table) :
    ¬ nm <+: p := by
  have hnone := List.findIdx?_eq_none_iff.1 (helpIndex_eq_none h) nm hnm
  exact mt take_eq_iff_prefix.2 (of_decide_eq_false hnone)

/-- The first name to begin the partial is the first entry of that name. -/
theorem firstNamed_of_firstPrefixOf {nm : List Byte} (hi : table[i]? = some nm) (h : FirstPrefixOf table p i) :
    FirstNamed table nm i := by
  obtain ⟨⟨nm', hi', hpre⟩, hlt⟩ := h
  obtain rfl : nm' = nm := Option.some.inj (hi'.symm.trans hi)
  exact ⟨hi, fun j hj hjn => hlt j hj nm' hjn hpre⟩

/-! ## The names that extend the partial -/

theorem mem_candidates_iff :
    i ∈ candidates table p ↔ ∃ nm, table[i]? = some nm ∧ p.length < nm.length ∧ p <+: nm := by
  rw [candidates, List.mem_filter, List.mem_range, decide_eq_true_eq]
  constructor
  · rintro ⟨hi, hlt, htake⟩
    rw [List.getD_eq_getElem _ _ hi] at hlt htake
    exact ⟨_, List.getElem?_eq_getElem hi, hlt, take_eq_iff_prefix.1 ⟨hlt.le, htake⟩⟩
  · rintro ⟨nm, hi, hlt, hpre⟩
    rw [List.getD_eq_getElem?_getD, hi]
    exact ⟨(List.getElem?_eq_some_iff.1 hi).1, hlt, (take_eq_iff_prefix.2 hpre).2⟩

/-- When no name begins the partial, every name that it begins is longer. -/
theorem candidates_eq {cs : List Nat} (h : ∀ i, ¬ FirstPrefixOf table p i) (hrise : cs.Pairwise (· < ·))
    (hcs : ∀ i, i ∈ cs ↔ ∃ nm, table[i]? = some nm ∧ p <+: nm) : candidates table p = cs := by
  refine (List.pairwise_lt_range.filter _).eq_of_mem_iff hrise fun i => ?_
  rw [hcs]
  refine mem_candidates_iff.trans (exists_congr fun nm => and_congr_right fun hi => and_iff_right_of_imp fun hpre => ?_)
  refine Nat.lt_of_not_le fun hle => not_prefix_of_no_first h (List.mem_of_getElem? hi) ?_
  rw [hpre.eq_of_length_le hle]

end

/-! ## The help line -/

section
variable {s : State} {nm : List Byte}

theorem legalName_no_space {c : Config} (h : LegalName c nm) : ∀ b ∈ nm, b ≠ space := by
  obtain ⟨-, -, hbytes⟩ := h
  rintro b hb rfl
  exact absurd (hbytes space hb).1 (by decide)

/-- The help line's two words (43_dispatch.md R342). -/
def helpTokens (nm : List Byte) : List (Nat × Nat) := [(0, nm.length), (nm.length + 1, 4)]

theorem scanTokens_helpLine (hne : nm ≠ []) (hnm : ∀ b ∈ nm, b ≠ space) :
    scanTokens (nm ++ helpSuffix) 0 none = helpTokens nm := by
  have hsuffix : helpSuffix = space :: ([0x68, 0x65, 0x6C, 0x70] ++ []) := rfl
  rw [scanTokens_append_of_word hnm hne, Nat.zero_add, hsuffix, scanTokens, if_pos rfl,
    scanTokens_append_of_word (by decide) (by decide), scanTokens, helpTokens, Nat.add_sub_cancel_left]
  rfl

theorem keptTokens_helpLine (hne : nm ≠ []) (hnm : ∀ b ∈ nm, b ≠ space) (s : State) :
    keptTokens (setDispatchLine (nm ++ helpSuffix) s) = (helpTokens nm).take s.cfg.maxTok := by
  rw [keptTokens, setDispatchLine_dispatchLine, scanTokens_helpLine hne hnm, setDispatchLine_cfg]

/-- The help line's first word is the name. -/
theorem slice_helpLine_name (m : Memory) (nm : List Byte) :
    (m.writeBytes 0 (nm ++ helpSuffix)).slice 0 nm.length = nm := by
  have hle : nm.length ≤ (nm ++ helpSuffix).length := (List.prefix_append nm _).length_le
  rw [← Memory.slice_take _ 0 _ _ hle, Memory.slice_writeBytes, List.take_left]

/-- Its second word is `help`. -/
theorem slice_helpLine_help (m : Memory) (nm : List Byte) :
    (m.writeBytes 0 (nm ++ helpSuffix)).slice (nm.length + 1) 4 = [0x68, 0x65, 0x6C, 0x70] := by
  have hdrop := Memory.slice_drop (m.writeBytes 0 (nm ++ helpSuffix)) 0 (nm ++ helpSuffix).length (nm.length + 1)
  have hlen : (nm ++ helpSuffix).length - (nm.length + 1) = 4 := by simp [helpSuffix]
  rw [Memory.slice_writeBytes, Nat.zero_add, hlen] at hdrop
  rw [← hdrop, ← List.drop_drop, List.drop_left]
  rfl

theorem tokenTexts_helpTokens (m : Memory) (nm : List Byte) (k : Nat) :
    tokenTexts (m.writeBytes 0 (nm ++ helpSuffix)) ((helpTokens nm).take k)
      = [nm, [0x68, 0x65, 0x6C, 0x70]].take k := by
  rw [tokenTexts, List.map_take, helpTokens, List.map_cons, List.map_singleton, slice_helpLine_name,
    slice_helpLine_help]

/-- The state after TAB has put the help line in place and handed command `i` off. -/
def helpShown (i : Nat) (nm : List Byte) (s : State) : State :=
  withCommand false i ([nm, [0x68, 0x65, 0x6C, 0x70]].take s.cfg.maxTok)
    (withTokens ((helpTokens nm).take s.cfg.maxTok) (setDispatchLine (nm ++ helpSuffix) s))

/-- EXECUTE on the help line hands the name's command off. -/
theorem execute_helpLine {i : Nat} (hlegal : LegalConfig s.cfg) (hi : FirstNamed s.cfg.cmdTable nm i) :
    execute false (setDispatchLine (nm ++ helpSuffix) s) = (.dispatched, helpShown i nm s) := by
  obtain ⟨-, -, ⟨-, -, -, -, -, -, hK, -⟩, ⟨-, -, -, hnames⟩, -⟩ := hlegal
  have hname := hnames nm (List.mem_of_getElem? hi.1)
  have hne : nm ≠ [] := List.length_pos_iff.1 hname.1
  have hkept := keptTokens_helpLine hne (legalName_no_space hname) s
  have hfirst : (helpTokens nm).take s.cfg.maxTok = (0, nm.length) :: [(nm.length + 1, 4)].take (s.cfg.maxTok - 1) :=
    List.take_cons hK
  have hmatch := matchName_tokenize (hkept.trans hfirst)
  rw [setDispatchLine_cfg, setDispatchLine_dp, slice_helpLine_name, matchName_eq_some_iff.2 hi] at hmatch
  have hkeep : keptTokens (setDispatchLine (nm ++ helpSuffix) s) ≠ [] := by simp [hkept, hfirst]
  rw [execute_of_match hkeep hmatch, handOff_tokenize, hkept, setDispatchLine_dp, tokenTexts_helpTokens, helpShown]

end

/-! ## TAB -/

section
variable {s : State}

theorem exec_tab_of_pending (hp : s.dp.pending = true) : exec .tab s = .next (answer 0x20000000 s) := if_pos hp

theorem exec_tab_accepted (hp : s.dp.pending = false) :
    exec .tab s = .next (tabAnswer (complete s).1 (complete s).2) := if_neg (by simp [hp])

/-- The answer of a TAB that finds nothing. -/
theorem tabAnswer_noMatch (s : State) :
    tabAnswer { out := .noMatch, count := 0, index := 0 } s = answer 0x00000000 s := rfl

theorem tabAnswer_eq {out : TabOut} {top : Byte} (h : (0 : BitVec 4) ++ tabCode out = top) (n i : Nat) (s : State) :
    tabAnswer { out := out, count := n, index := i } s
      = answer (top ++ (0 : BitVec 8) ++ BitVec.ofNat 8 (min n 255) ++ BitVec.ofNat 8 i) s :=
  congrArg (answer · s) (responseWord_payloadCode h _ _)

theorem tabAnswer_singleMatch (i : Nat) (s : State) :
    tabAnswer { out := .singleMatch, count := 1, index := i } s
      = answer ((0x01 : BitVec 8) ++ (0 : BitVec 8) ++ (0x01 : BitVec 8) ++ BitVec.ofNat 8 i) s :=
  tabAnswer_eq rfl 1 i s

theorem tabAnswer_helpShown (i : Nat) (s : State) :
    tabAnswer { out := .helpShown, count := 1, index := i } s
      = answer ((0x02 : BitVec 8) ++ (0 : BitVec 8) ++ (0x01 : BitVec 8) ++ BitVec.ofNat 8 i) s :=
  tabAnswer_eq rfl 1 i s

theorem tabAnswer_multipleMatches (n : Nat) (s : State) :
    tabAnswer { out := .multipleMatches, count := n, index := 0 } s
      = answer ((0x03 : BitVec 8) ++ (0 : BitVec 8) ++ BitVec.ofNat 8 (min n 255) ++ (0 : BitVec 8)) s :=
  tabAnswer_eq rfl n 0 s

theorem exec_tab_of_empty (hp : s.dp.pending = false) (hempty : s.dp.dlen = 0) :
    exec .tab s = .next (answer 0x00000000 s) := by
  rw [exec_tab_accepted hp, complete_of_empty hempty, tabAnswer_noMatch]

theorem commandName_of_getElem? {i : Nat} {nm : List Byte} (hi : s.cfg.cmdTable[i]? = some nm) :
    commandName s i = nm := by
  rw [commandName, List.getD_eq_getElem?_getD, hi, Option.getD_some]

theorem exec_tab_of_help {i : Nat} {nm : List Byte} (hlegal : LegalConfig s.cfg) (hp : s.dp.pending = false)
    (hlen : s.dp.dlen ≠ 0) (hi : s.cfg.cmdTable[i]? = some nm)
    (hfirst : FirstPrefixOf s.cfg.cmdTable (dispatchLine s) i) :
    exec .tab s = .next (answer ((0x02 : BitVec 8) ++ (0 : BitVec 8) ++ (0x01 : BitVec 8) ++ BitVec.ofNat 8 i)
      (helpShown i nm s)) := by
  rw [exec_tab_accepted hp, complete_of_help hlen (helpIndex_eq_some_iff.2 hfirst), tabAnswer_helpShown,
    commandName_of_getElem? hi, execute_helpLine hlegal (firstNamed_of_firstPrefixOf hi hfirst)]

/-- TAB when no name begins the partial: by the names that extend it. -/
theorem exec_tab_of_prefix (hp : s.dp.pending = false) (hlen : s.dp.dlen ≠ 0)
    (hno : ∀ i, ¬ FirstPrefixOf s.cfg.cmdTable (dispatchLine s) i) :
    exec .tab s = .next (tabAnswer (completePrefix s).1 (completePrefix s).2) := by
  rw [exec_tab_accepted hp, complete_of_prefix hlen (helpIndex_eq_none hno)]

theorem completePrefix_of_none (h : candidates s.cfg.cmdTable (dispatchLine s) = []) :
    completePrefix s = ({ out := .noMatch, count := 0, index := 0 }, s) := by rw [completePrefix, h]

theorem completePrefix_of_one {i : Nat} (h : candidates s.cfg.cmdTable (dispatchLine s) = [i]) :
    completePrefix s
      = ({ out := .singleMatch, count := 1, index := i }, setDispatchLine (commandName s i) s) := by
  rw [completePrefix, h]

theorem completePrefix_of_two_le {cs : List Nat} (h : candidates s.cfg.cmdTable (dispatchLine s) = cs)
    (hcs : 2 ≤ cs.length) :
    completePrefix s
      = ({ out := .multipleMatches, count := cs.length, index := 0 }, emit (listing s cs) s) := by
  rw [completePrefix, h]
  match cs, hcs with
  | _ :: _ :: _, _ => rfl

end

end Sys2Proof.Machine

open Sys2Proof Sys2Proof.Machine

/-- Settles O43: the name's help line is executed, and its first token is the name, which heads the table's entries of
that name because no earlier one begins the partial. -/
theorem tabShowsHelpForACompleteName : Obligations.TabShowsHelpForACompleteName := by
  intro s i nm hlegal hp hlen hi hfirst
  have hargc : (helpShown i nm s).dp.argc = min s.cfg.maxTok 2 := List.length_take
  refine ⟨_, helpShown i nm s, exec_tab_of_help hlegal hp hlen hi hfirst, rfl,
    setDispatchLine_dispatchLine (nm ++ helpSuffix) s, fun a ha => ?_, rfl, rfl, rfl, hargc, ?_, ?_, ?_, rfl⟩
  · exact Memory.read_writeBytes_of_ge _ _ (by simpa [helpSuffix] using ha)
  · exact congrArg (· ++ s.dp.tokStart.drop (helpShown i nm s).dp.argc) List.map_take
  · exact congrArg (· ++ s.dp.tokLen.drop (helpShown i nm s).dp.argc) List.map_take
  · have hcount : ([nm, [0x68, 0x65, 0x6C, 0x70]].take s.cfg.maxTok).length = min s.cfg.maxTok 2 := List.length_take
    rw [hargc, ← hcount]
    rfl

/-- Settles O44: pending, an empty partial, and the names that extend the partial, none, one or more. -/
theorem tabCompletesByPrefix : Obligations.TabCompletesByPrefix := by
  refine ⟨fun _ => exec_tab_of_pending, fun _ => exec_tab_of_empty, fun s cs hp hlen hno hrise hcs => ?_⟩
  have hcand := candidates_eq hno hrise hcs
  rw [exec_tab_of_prefix hp hlen hno]
  refine ⟨fun hnil => ?_, fun i nm hone hi => ?_, fun hmany => ?_⟩
  · rw [completePrefix_of_none (hcand.trans hnil), tabAnswer_noMatch]
  · refine ⟨s.dp.dline.writeBytes 0 nm, Memory.slice_writeBytes _ 0 nm,
      fun a ha => Memory.read_writeBytes_of_ge _ nm (by rwa [Nat.zero_add]), ?_⟩
    rw [completePrefix_of_one (hcand.trans hone), tabAnswer_singleMatch, commandName_of_getElem? hi,
      setDispatchLine]
  · rw [completePrefix_of_two_le hcand hmany, tabAnswer_multipleMatches]
    rfl

end

section
/-! What no step takes back (60_exceptions.md R386, R389): a recorded fault, the race bit, the logs and the FIFOs' ghost
counts are ordered by growth, and every operation of a tick is a growth. -/

namespace Sys2Proof.Machine

/-! ## Growth -/

/-- `g'` keeps a recorded fault and the race bit of `g`, and its logs extend those of `g`. -/
structure Ghost.Grows (g g' : Ghost) : Prop where
  fault : ∀ x, g.fault = some x → g'.fault = some x
  race : g.race = true → g'.race = true
  txlog : g.txlog <+: g'.txlog
  handoffs : g.handoffs <+: g'.handoffs
  rsplog : g.rsplog <+: g'.rsplog

/-- Neither count of the FIFO has gone down. -/
structure FifoGhost.Grows (f f' : FifoGhost) : Prop where
  wabs : f.wabs ≤ f'.wabs
  rabs : f.rabs ≤ f'.rabs

/-- `t` has the configuration of `s`, and its ghost fields have grown from those of `s`. -/
def Grows (s t : State) : Prop :=
  t.cfg = s.cfg ∧ s.g.Grows t.g ∧ s.rx.ghost.Grows t.rx.ghost ∧ s.tx.ghost.Grows t.tx.ghost

theorem Ghost.Grows.refl (g : Ghost) : g.Grows g :=
  ⟨fun _ => id, id, List.prefix_rfl, List.prefix_rfl, List.prefix_rfl⟩

theorem Ghost.Grows.trans {g g' g'' : Ghost} (h : g.Grows g') (h' : g'.Grows g'') : g.Grows g'' where
  fault x hx := h'.fault x (h.fault x hx)
  race hr := h'.race (h.race hr)
  txlog := h.txlog.trans h'.txlog
  handoffs := h.handoffs.trans h'.handoffs
  rsplog := h.rsplog.trans h'.rsplog

theorem FifoGhost.Grows.refl (f : FifoGhost) : f.Grows f := ⟨le_rfl, le_rfl⟩

theorem FifoGhost.Grows.trans {f f' f'' : FifoGhost} (h : f.Grows f') (h' : f'.Grows f'') : f.Grows f'' :=
  ⟨h.wabs.trans h'.wabs, h.rabs.trans h'.rabs⟩

/-- An update of other fields than the configuration and the ghost ones is a growth by `Grows.refl` too, which looks at
no other field. -/
theorem Grows.refl (s : State) : Grows s s := ⟨rfl, .refl _, .refl _, .refl _⟩

theorem Grows.trans {s t u : State} (h : Grows s t) (h' : Grows t u) : Grows s u := by
  obtain ⟨hcfg, hg, hrx, htx⟩ := h
  obtain ⟨hcfg', hg', hrx', htx'⟩ := h'
  exact ⟨hcfg'.trans hcfg, hg.trans hg', hrx.trans hrx', htx.trans htx'⟩

/-! ## The ghost fields -/

variable (s : State)

/-- The first fault raised stays the recorded one (60_exceptions.md R386). -/
theorem grows_raise (x : Fault) : Grows s (raise x s) := by
  have hfirst : ∀ y, s.g.fault = some y → s.g.fault.or (some x) = some y := fun y hy => by rw [hy, Option.some_or]
  exact ⟨rfl, { Ghost.Grows.refl s.g with fault := hfirst }, .refl _, .refl _⟩

theorem grows_respond (st : Status) (p : BitVec 28) : Grows s (respond st p s) :=
  ⟨rfl, { Ghost.Grows.refl s.g with rsplog := List.prefix_append _ _ }, .refl _, .refl _⟩

theorem grows_startTx (v : Byte) : Grows s (startTx v s) :=
  ⟨rfl, { Ghost.Grows.refl s.g with txlog := List.prefix_append _ _ }, .refl _, .refl _⟩

theorem grows_handOff (fromLe : Bool) (i : Nat) : Grows s (handOff fromLe i s) :=
  ⟨rfl, { Ghost.Grows.refl s.g with handoffs := List.prefix_append _ _ }, .refl _, .refl _⟩

/-- A race sets the race bit, and nothing clears it (60_exceptions.md R389). -/
theorem Ghost.Grows.orRace (g : Ghost) (raced : Bool) : g.Grows { g with race := g.race || raced } :=
  { Ghost.Grows.refl g with race := fun h => by rw [h, Bool.true_or] }

/-! ## Pushes and pops -/

theorem Fifo.grows_push (c : FifoCfg) (b : Byte) (f : Fifo) : f.ghost.Grows (f.push c b).ghost :=
  ⟨Nat.le_succ _, le_rfl⟩

theorem Fifo.grows_discard (c : FifoCfg) (f : Fifo) : f.ghost.Grows (f.discard c).ghost := by
  unfold Fifo.discard
  split
  · exact ⟨le_rfl, Nat.le_add_right _ _⟩
  · exact .refl _

theorem Fifo.grows_pop (c : FifoCfg) (draw : Byte) (f : Fifo) : f.ghost.Grows (f.pop c draw).fifo.ghost := by
  rcases f.pop_result c draw with ⟨-, hpop⟩ | ⟨-, v, -, hfifo, -⟩
  · rw [hpop]
    exact .refl _
  · rw [hfifo]
    exact (f.grows_discard c).trans ⟨le_rfl, Nat.le_succ _⟩

theorem grows_pushRx (b : Byte) : Grows s (pushRx b s) := by
  have hpush : Grows s { s with rx := s.rx.push s.cfg.rx b } := ⟨rfl, .refl _, s.rx.grows_push _ b, .refl _⟩
  unfold pushRx
  dsimp only
  split
  · exact hpush.trans (grows_raise _ _)
  · exact hpush

theorem grows_pushTx (b : Byte) : Grows s (pushTx b s) := by
  have hpush : Grows s { s with tx := s.tx.push s.cfg.tx b } := ⟨rfl, .refl _, .refl _, s.tx.grows_push _ b⟩
  unfold pushTx
  dsimp only
  split
  · exact hpush.trans (grows_raise _ _)
  · exact hpush

theorem grows_emitByte (b : Byte) : Grows s (emitByte b s) := grows_pushTx s b

theorem grows_emit (l : List Byte) : Grows s (emit l s) :=
  emit_induct (P := Grows s) (fun b t h => h.trans (grows_emitByte t b)) l s (.refl s)

theorem grows_popRx : Grows s (popRx s).2 := by
  rw [popRx_eq]
  exact ⟨rfl, .orRace s.g _, s.rx.grows_pop _ _, .refl _⟩

theorem grows_popTx : Grows s (popTx s).2 := by
  rw [popTx_eq]
  exact ⟨rfl, .orRace s.g _, .refl _, s.tx.grows_pop _ _⟩

theorem grows_popped {u : State} {byte : Option Byte} (hpop : popRx s = (byte, u)) : Grows s u := by
  obtain rfl : (popRx s).2 = u := congrArg Prod.snd hpop
  exact grows_popRx s

/-! ## EXECUTE, COMPLETE and the editor -/

theorem grows_execute (fromLe : Bool) : Grows s (execute fromLe s).2 := by
  have htok : Grows s (tokenize s) := .refl s
  rcases execute_snd_cases s fromLe with h | h | ⟨i, -, -, h⟩ <;> rw [h]
  · exact htok
  · exact htok.trans (grows_emit _ _)
  · exact htok.trans (grows_handOff _ fromLe i)

theorem grows_complete : Grows s (complete s).2 := by
  have hline : ∀ l, Grows s (setDispatchLine l s) := fun _ => .refl s
  rcases complete_snd_cases s with ⟨l, h⟩ | ⟨i, -, h⟩ | ⟨i, -, h⟩ <;> rw [h]
  · exact grows_emit s l
  · exact hline _
  · exact (hline _).trans (grows_execute _ false)

theorem grows_commitLine : Grows s (commitLine s) := by
  unfold commitLine
  split
  · exact .refl s
  · exact .refl s

theorem grows_actEnter : Grows s (actEnter s) := by
  have hcommit : Grows s (commitLine (emit s.cfg.newline s)) := (grows_emit s _).trans (grows_commitLine _)
  have hline : Grows s (handLine (commitLine (emit s.cfg.newline s))) := hcommit
  have hexec := hline.trans (grows_execute _ true)
  unfold actEnter promptUnlessDispatched
  dsimp only
  split
  · exact hexec
  · exact hexec.trans (grows_emit _ _)

theorem grows_actEffect (b : Byte) (act : LeAct) : Grows s (actEffect b s act) := by
  rcases actEffect_cases s b act with h | h | ⟨l, le, -, h⟩ <;> rw [h]
  · exact grows_actEnter s
  · exact grows_raise s _
  · exact grows_emit { s with le := le } l

theorem grows_leStep (b : Byte) : Grows s (leStep b s).2 := by
  obtain ⟨n, h⟩ := leStep_snd s b
  rw [h]
  exact grows_actEffect s b _

theorem grows_finishCommand : Grows s (finishCommand s) := by
  unfold finishCommand
  dsimp only
  split
  · exact grows_emit { s with dp.pending := false } _
  · exact .refl s

/-! ## Ticks -/

variable {s}

theorem RequestEffect.grows {i : Instr} {u : State} (h : RequestEffect s i u) : Grows s u := by
  cases h with
  | unchanged | lineCleared | lineExtended | reinitialized => exact .refl s
  | popped hpop => exact grows_popped s hpop
  | polledNone _ hpop => exact grows_popped s hpop
  | sent d => exact grows_emitByte s d
  | fed d => exact grows_leStep s d
  | polled _ hpop => exact (grows_popped s hpop).trans (grows_leStep _ _)
  | executed => exact grows_execute s false
  | completed => exact grows_complete s
  | finished => exact grows_finishCommand s

theorem EngineEffect.grows {u : State} (h : EngineEffect s u) : Grows s u := by
  rcases h with rfl | ⟨byte, t, hpop, hu⟩
  · exact .refl _
  · obtain rfl : (popTx s).2 = t := congrArg Prod.snd hpop
    rcases hu with rfl | rfl | ⟨v, rfl⟩
    · exact grows_popTx s
    · exact grows_popTx s
    · exact (grows_popTx s).trans (grows_startTx _ v)

/-- Every tick completes, and grows: its phases touch no ghost field, and its logic is a growth. -/
theorem exists_runTick_grows (tick : Tick) (s : State) : ∃ t, runTick tick s = .next t ∧ Grows s t := by
  cases tick with
  | core req =>
    have hphases : Grows s (corePhases s) := .refl s
    cases req with
    | none => exact ⟨_, rfl, hphases⟩
    | some w =>
      obtain ⟨st, p, u, heff, hexec⟩ := exec_request (corePhases s) (decodeReq_format w)
      exact ⟨_, hexec, (hphases.trans heff.grows).trans (grows_respond u st p)⟩
  | rx byte =>
    have hphases : Grows s (rxPhases s) := .refl s
    cases byte with
    | none => exact ⟨_, rfl, hphases⟩
    | some b => exact ⟨_, rfl, hphases.trans (grows_pushRx _ b)⟩
  | tx done =>
    have hphases : Grows s (txPhases s) := .refl s
    obtain ⟨u, hrun, heff⟩ := runTick_tx done s
    exact ⟨u, hrun, hphases.trans heff.grows⟩

theorem exists_step_grows (s : State) : ∃ t, step s = .next t ∧ Grows s t := by
  obtain ⟨env, draws, hfetch⟩ := exists_fetch s
  have hfetched : Grows s (fetch s).2 := by
    rw [hfetch]
    exact .refl s
  obtain ⟨t, hrun, hgrows⟩ := exists_runTick_grows (fetch s).1 (fetch s).2
  exact ⟨t, hrun, hfetched.trans hgrows⟩

end Sys2Proof.Machine

open Sys2Proof.Machine

/-- Settles O10: every tick completes, and each operation in it is a growth of the ghost fields. -/
theorem everyStepCompletesAndFaultsStay : Obligations.EveryStepCompletesAndFaultsStay := by
  intro s
  obtain ⟨t, hstep, hcfg, hg, hrx, htx⟩ := exists_step_grows s
  exact ⟨t, hstep, hcfg, hg.fault, hg.race, hg.txlog, hg.handoffs, hg.rsplog, hrx.wabs, htx.wabs, hrx.rabs, htx.rabs⟩

end

section
/-! The check of a configuration before reset (00_scope.md R9, R11; 70_reset_and_hazards.md R413): `configOk` and
`LegalConfig` list the same constraints. -/

namespace Sys2Proof.Machine

theorem fifoCfgOk_iff {c : FifoCfg} : fifoCfgOk c = true ↔ LegalFifo c := decide_eq_true_iff

theorem nameOk_iff {c : Config} {nm : List Byte} : nameOk c nm = true ↔ LegalName c nm := by
  rw [nameOk, Bool.and_eq_true, decide_eq_true_iff, List.all_eq_true, and_assoc]
  simp only [decide_eq_true_eq, Config.lineCap]

theorem configOk_iff {c : Config} : configOk c = true ↔ LegalConfig c := by
  simp only [configOk, Bool.and_eq_true, decide_eq_true_eq, List.all_eq_true, fifoCfgOk_iff, nameOk_iff, baudValid_iff,
    LegalConfig, LegalSizes, LegalTable, LegalTexts, and_assoc]

end Sys2Proof.Machine

open Sys2Proof Sys2Proof.Machine

/-- Settles O12: reset branches on the check, and the check is `LegalConfig`. -/
theorem resetRefusesIllegalConfigurations : Obligations.ResetRefusesIllegalConfigurations := fun _ =>
  ⟨fun hlegal => if_pos (configOk_iff.2 hlegal), fun hillegal => if_neg (mt configOk_iff.1 hillegal)⟩

end

section
/-! Quiescent states (70_reset_and_hazards.md R431): where every copy equals its source, the phases of each domain move
nothing, and the engine finds nothing to start. -/

namespace Sys2Proof.Machine

/-! ## A settled crossing -/

/-- A synchronizer whose stages all hold its source does not move. -/
theorem syncShift_of_settled {α : Type} {src : α} {chain : List α} (h : ∀ x ∈ chain, x = src) :
    syncShift src chain = chain := by
  rw [List.eq_replicate_of_mem h, syncShift, ← List.replicate_succ, List.dropLast_replicate, Nat.add_sub_cancel]

/-- A published copy that stands at its pointer does not move. -/
theorem publish_of_settled {c : FifoCfg} {p pub : Nat} (hp : p < c.modulus) (hpub : pub = gray p) :
    publish c p pub = pub := publish_of_done (by rw [hpub, bin_gray hp])

section
variable {c : FifoCfg} {depth : Nat} {f : Fifo}

theorem FifoSettled.writePhases (hi : FifoInv c depth f) (h : FifoSettled f) :
    { f with rsync := syncShift f.rpub f.rsync, wpub := publish c f.wptr f.wpub } = f := by
  obtain ⟨-, hwpub, -, -, hrsync⟩ := h
  rw [syncShift_of_settled hrsync, publish_of_settled hi.wptr_lt hwpub]

theorem FifoSettled.readPhases (hi : FifoInv c depth f) (h : FifoSettled f) :
    { f with wsync := syncShift f.wpub f.wsync, rpub := publish c f.rptr f.rpub } = f := by
  obtain ⟨-, -, hrpub, hwsync, -⟩ := h
  rw [syncShift_of_settled hwsync, publish_of_settled hi.rptr_lt hrpub]

/-- The read side sees the write pointer where it is, and that is where the read pointer is. -/
theorem FifoSettled.leadR_eq_zero (hd : 0 < depth) (hi : FifoInv c depth f) (h : FifoSettled f) : f.leadR c = 0 := by
  obtain ⟨hcount, hwpub, -, hwsync, -⟩ := h
  have hview : stagePtr f.wsync = gray f.wptr := (hwsync _ (stagePtr_mem (hi.wsync_ne_nil hd))).trans hwpub
  have hptr : f.wptr = f.rptr := by rw [hi.wptr_eq, hi.rptr_eq, hcount]
  rw [Fifo.leadR, hview, bin_gray hi.wptr_lt, hptr]
  exact subMod_eq_of_add_modEq (modulus_pos c) (by rw [Nat.zero_add])

end

/-! ## A quiet tick -/

section
variable {s : State}

theorem Quiescent.idle (h : Quiescent s) : s.te.busy = false := by
  obtain ⟨-, -, -, -, -, -, -, hbusy, -⟩ := h
  exact hbusy

theorem Quiescent.env_quiet (h : Quiescent s) : ∀ t ∈ s.env, t.quiet = true := by
  obtain ⟨-, -, -, -, -, -, -, -, henv⟩ := h
  exact henv

/-- Quiescence does not look at the draw count and the two one-tick outputs, and of the environment only that it is
quiet. -/
theorem Quiescent.withBookkeeping {env : List Tick} {draws : Nat} {rsp : Option Word} {txStart : Option Byte}
    (h : Quiescent s) (henv : ∀ t ∈ env, t.quiet = true) :
    Quiescent { s with env := env, draws := draws, rsp := rsp, txStart := txStart } := by
  obtain ⟨hfault, hpending, hrx, htx, hen, hbusySync, hlap, hbusy, -⟩ := h
  exact ⟨hfault, hpending, hrx, htx, hen, hbusySync, hlap, hbusy, henv⟩

theorem rxPhases_of_quiescent (hinv : Inv s) (h : Quiescent s) : rxPhases s = s := by
  obtain ⟨-, -, hrx, -⟩ := h
  have hphases := hrx.writePhases hinv.rxOk.inv
  rw [rxPhases, hphases]

theorem corePhases_of_quiescent (hinv : Inv s) (h : Quiescent s) : corePhases s = { s with rsp := none } := by
  obtain ⟨-, -, hrx, htx, -, hbusySync, hlap, -⟩ := h
  have hread := hrx.readPhases hinv.rxOk.inv
  have hwrite := htx.writePhases hinv.txOk.inv
  rw [corePhases, hread, hwrite, syncShift_of_settled hbusySync, syncShift_of_settled hlap]

theorem txPhases_of_quiescent (hinv : Inv s) (h : Quiescent s) : txPhases s = { s with txStart := none } := by
  obtain ⟨-, -, -, htx, hen, -⟩ := h
  have hphases := htx.readPhases hinv.txOk.inv
  rw [txPhases, hphases, syncShift_of_settled hen]

/-- The TX FIFO has nothing to pop, so the engine starts nothing. -/
theorem idleStart_of_quiescent (hinv : Inv s) (h : Quiescent s) : idleStart s = s := by
  obtain ⟨-, -, -, htx, -⟩ := h
  refine idleStart_of_none ?_
  rw [txPopResult, Fifo.pop_of_empty (htx.leadR_eq_zero hinv.depth_pos hinv.txOk.inv)]

/-- A quiet tick of a quiescent state ends the domain's one-tick output, and does nothing else. -/
theorem runTick_of_quiescent {tick : Tick} (hinv : Inv s) (h : Quiescent s) (hquiet : tick.quiet = true) :
    ∃ rsp txStart, runTick tick s = .next { s with rsp := rsp, txStart := txStart } := by
  match tick, hquiet with
  | .core none, _ => exact ⟨none, s.txStart, congrArg Host.Outcome.next (corePhases_of_quiescent hinv h)⟩
  | .rx none, _ => exact ⟨s.rsp, s.txStart, congrArg Host.Outcome.next (rxPhases_of_quiescent hinv h)⟩
  | .tx _, _ =>
    have hstart : idleStart (txPhases s) = txPhases s := by
      rw [txPhases_of_quiescent hinv h]
      exact idleStart_of_quiescent (s := { s with txStart := none }) hinv (h.withBookkeeping h.env_quiet)
    refine ⟨s.rsp, none, ?_⟩
    rw [runTick_tx_of_idle fun _ => h.idle, hstart, txPhases_of_quiescent hinv h]

/-! ## The next tick -/

theorem idleTick_quiet (a : Agent) : (idleTick a).quiet = true := by cases a <;> rfl

/-- A quiet environment offers a quiet tick and stays quiet, and an unoffered tick is quiet. -/
theorem fetch_quiet (henv : ∀ t ∈ s.env, t.quiet = true) :
    (fetch s).1.quiet = true ∧ ∀ t ∈ (fetch s).2.env, t.quiet = true := by
  unfold fetch
  split
  · next heq => exact List.forall_mem_cons.1 (heq ▸ henv)
  · exact ⟨idleTick_quiet _, henv⟩

end

end Sys2Proof.Machine

open Sys2Proof Sys2Proof.Machine

/-- Settles O16: taking the tick keeps the state quiescent, and the tick, which is quiet, moves only the outputs. -/
theorem quiescentStatesStayQuiescent : Obligations.QuiescentStatesStayQuiescent := by
  intro s hinv hquiescent
  obtain ⟨htick, hrest⟩ := fetch_quiet hquiescent.env_quiet
  obtain ⟨env, draws, hfetch⟩ := exists_fetch s
  rw [hfetch] at hrest
  obtain ⟨rsp, txStart, hrun⟩ := runTick_of_quiescent (s := { s with env := env, draws := draws }) hinv
    (hquiescent.withBookkeeping hrest) htick
  have hstep : step s = .next { s with env := env, draws := draws, rsp := rsp, txStart := txStart } := by
    rw [step, hfetch]
    exact hrun
  exact ⟨_, hstep, hquiescent.withBookkeeping hrest, rfl⟩

end

section
/-! How many bytes an action or a request pushes into the TX FIFO (70_reset_and_hazards.md R422): each is at most one
emission, and the bound is one on the emitted string's length. -/

namespace Sys2Proof.Machine

/-! ## Pushes of one emission -/

/-- From `s` to `t` at most `n` bytes are pushed into the TX FIFO. -/
def PushesAtMost (n : Nat) (s t : State) : Prop := t.tx.ghost.wabs - s.tx.ghost.wabs ≤ n

section
variable {n : Nat} {s t u : State}

theorem PushesAtMost.of_tx_eq (h : t.tx = s.tx) : PushesAtMost n s t := by
  rw [PushesAtMost, h, Nat.sub_self]
  exact Nat.zero_le n

/-- An emission pushes as many bytes as its string has. -/
theorem PushesAtMost.of_emit {l : List Byte} (hu : u.tx = s.tx) (hl : l.length ≤ n) : PushesAtMost n s (emit l u) := by
  rwa [PushesAtMost, emit_wabs, hu, Nat.add_sub_cancel_left]

theorem PushesAtMost.of_exec {i : Instr} (hu : exec i s = .next u) (h : PushesAtMost n s u) (ht : exec i s = .next t) :
    t.tx.ghost.wabs - s.tx.ghost.wabs ≤ n := by
  cases hu.symm.trans ht
  exact h

end

variable {s : State}

/-! ## The editor -/

theorem clearBytes_length (n : Nat) : (clearBytes n).length = 3 * n := by
  simp only [clearBytes, List.length_append, List.length_replicate]
  omega

/-- A line cleared and an entry put in its place: three bytes for each cell of the one, and the other. -/
theorem pushes_clear_then_loadEntry (hinv : LeInv s.cfg s.le) (j d : Nat) :
    PushesAtMost (4 * s.cfg.lineCap) s (loadEntry j { clearLine (setEsc 0 s) with le.hdepth := d }) := by
  obtain ⟨-, -, hlen⟩ := hinv.line_bounds
  have hentry : histLen j s ≤ s.cfg.lineCap := hinv.hlen_le j
  rw [clear_then_loadEntry]
  refine .of_emit rfl ?_
  rw [List.length_append, clearBytes_length, histLine_length]
  omega

theorem pushes_actHistPrev (hinv : LeInv s.cfg s.le) : PushesAtMost (4 * s.cfg.lineCap) s (actHistPrev s) := by
  by_cases hmore : s.le.hdepth < s.le.hcount
  · rw [actHistPrev_of_older hmore]
    exact pushes_clear_then_loadEntry hinv _ _
  · have hstay : actHistPrev s = setEsc 0 s := if_neg hmore
    exact .of_tx_eq (by rw [hstay, setEsc_tx])

theorem pushes_actHistNext (hinv : LeInv s.cfg s.le) : PushesAtMost (4 * s.cfg.lineCap) s (actHistNext s) := by
  obtain ⟨-, -, hlen⟩ := hinv.line_bounds
  rcases Nat.lt_trichotomy s.le.hdepth 1 with hnone | hone | hmany
  · have hstay : actHistNext s = setEsc 0 s := if_pos (Nat.lt_one_iff.1 hnone)
    exact .of_tx_eq (by rw [hstay, setEsc_tx])
  · rw [actHistNext_of_depth_one hone]
    exact .of_emit rfl (by rw [clearBytes_length]; omega)
  · rw [actHistNext_of_two_le hmany]
    exact pushes_clear_then_loadEntry hinv _ _

/-- INSERT echoes its byte and goes over the tail twice; the line has a cell to spare. -/
theorem pushes_insertByte (hinv : LeInv s.cfg s.le) (hroom : s.le.len ≠ s.cfg.maxLen - 1) (b : Byte) :
    PushesAtMost (2 * s.cfg.maxLen - 3) s (insertByte b s) := by
  obtain ⟨-, -, hlen⟩ := hinv.line_bounds
  rw [Config.lineCap] at hlen
  rw [insertByte_eq]
  refine .of_emit rfl ?_
  simp only [List.length_append, List.length_drop, List.length_replicate, List.length_singleton, editLine_length]
  omega

/-- BACKSPACE moves back, goes over the tail twice, and blanks the vacated cell; the tail is not the whole line. -/
theorem pushes_actBackspace (hinv : LeInv s.cfg s.le) : PushesAtMost (2 * s.cfg.maxLen - 1) s (actBackspace s) := by
  obtain ⟨-, hcur, hlen⟩ := hinv.line_bounds
  rw [Config.lineCap] at hlen
  by_cases hzero : s.le.cur = 0
  · have hstay : actBackspace s = s := if_pos hzero
    exact .of_tx_eq (by rw [hstay])
  · have hdelete : actBackspace s = _ := Host.Outcome.next.inj (exec_leBackspace_of_cur_ne_zero 0x08 hzero)
    rw [hdelete]
    refine .of_emit rfl ?_
    simp only [List.length_append, List.length_drop, List.length_replicate, List.length_cons, List.length_nil,
      editLine_length]
    omega

theorem enterTail_length_le (s : State) : (enterTail s).length ≤ s.cfg.msgUnknown.length + s.cfg.prompt.length := by
  unfold enterTail
  split
  · exact Nat.le_add_left _ _
  · split
    · rw [List.length_append]
    · exact Nat.zero_le _

theorem pushes_actEnter (s : State) :
    PushesAtMost (s.cfg.newline.length + s.cfg.msgUnknown.length + s.cfg.prompt.length) s (actEnter s) := by
  have htail := enterTail_length_le s
  rw [actEnter_touches]
  refine PushesAtMost.of_emit (l := s.cfg.newline ++ enterTail s) (u := s) rfl ?_
  rw [List.length_append]
  omega

/-! ## TAB and CMD_DONE -/

/-- Name by name, the table. -/
theorem map_commandName_range (s : State) : (List.range s.cfg.cmdTable.length).map (commandName s) = s.cfg.cmdTable :=
  List.ext_getElem (by rw [List.length_map, List.length_range]) fun i _ hi => by
    rw [List.getElem_map, List.getElem_range]
    exact commandName_of_getElem? (List.getElem?_eq_getElem hi)

/-- A newline, and then each name on a line of its own. -/
theorem listing_length (s : State) (cs : List Nat) :
    (listing s cs).length
      = s.cfg.newline.length * (1 + cs.length) + ((cs.map (commandName s)).map List.length).sum := by
  simp only [listing, List.length_append, List.length_flatten, List.map_map, Function.comp_def, List.sum_map_add,
    List.map_const', List.sum_replicate_nat]
  ring

/-- The candidates are a sublist of the table's indices. -/
theorem listing_length_le (s : State) (p : List Byte) :
    (listing s (candidates s.cfg.cmdTable p)).length
      ≤ s.cfg.newline.length * (1 + s.cfg.cmdTable.length) + (s.cfg.cmdTable.map List.length).sum := by
  have hsub : (candidates s.cfg.cmdTable p).Sublist (List.range s.cfg.cmdTable.length) := List.filter_sublist
  have hcount : (candidates s.cfg.cmdTable p).length ≤ s.cfg.cmdTable.length := by
    simpa only [List.length_range] using hsub.length_le
  have hnames : (((candidates s.cfg.cmdTable p).map (commandName s)).map List.length).sum
      ≤ (s.cfg.cmdTable.map List.length).sum := by
    conv_rhs => rw [← map_commandName_range s]
    exact ((hsub.map _).map _).sum_le_sum fun _ _ => Nat.zero_le _
  rw [listing_length]
  exact Nat.add_le_add (Nat.mul_le_mul_left _ (Nat.add_le_add_left hcount 1)) hnames

/-- COMPLETE emits the listing or nothing: the help line that it executes is a command. -/
theorem pushes_complete (hlegal : LegalConfig s.cfg) :
    PushesAtMost (s.cfg.newline.length * (1 + s.cfg.cmdTable.length) + (s.cfg.cmdTable.map List.length).sum) s
      (complete s).2 := by
  by_cases hempty : s.dp.dlen = 0
  · rw [complete_of_empty hempty]
    exact .of_tx_eq rfl
  cases hhelp : helpIndex s.cfg.cmdTable (dispatchLine s) with
  | some i =>
    have hfirst := helpIndex_eq_some_iff.1 hhelp
    obtain ⟨nm, hi, -⟩ := hfirst.1
    rw [complete_of_help hempty hhelp, commandName_of_getElem? hi,
      execute_helpLine hlegal (firstNamed_of_firstPrefixOf hi hfirst)]
    exact .of_tx_eq rfl
  | none =>
    rw [complete_of_prefix hempty hhelp]
    rcases hcand : candidates s.cfg.cmdTable (dispatchLine s) with _ | ⟨i, _ | ⟨j, rest⟩⟩
    · rw [completePrefix_of_none hcand]
      exact .of_tx_eq rfl
    · rw [completePrefix_of_one hcand]
      exact .of_tx_eq rfl
    · rw [completePrefix_of_two_le hcand (Nat.le_add_left 2 _), ← hcand]
      exact .of_emit rfl (listing_length_le s _)

/-- TAB is COMPLETE unless a command is pending. -/
theorem exists_exec_tab_pushes (hlegal : LegalConfig s.cfg) :
    ∃ u, exec .tab s = .next u ∧ PushesAtMost
      (s.cfg.newline.length * (1 + s.cfg.cmdTable.length) + (s.cfg.cmdTable.map List.length).sum) s u := by
  cases hp : s.dp.pending with
  | true => exact ⟨_, exec_tab_of_pending hp, .of_tx_eq rfl⟩
  | false => exact ⟨_, exec_tab_accepted hp, pushes_complete hlegal⟩

theorem pushes_finishCommand (s : State) : PushesAtMost s.cfg.prompt.length s (finishCommand s) := by
  cases hfrom : s.dp.fromLe with
  | false =>
    rw [finishCommand_of_request hfrom]
    exact .of_tx_eq rfl
  | true =>
    rw [finishCommand_of_fromLe hfrom]
    exact .of_emit rfl le_rfl

theorem exists_exec_cmdDone_pushes (s : State) :
    ∃ u, exec .cmdDone s = .next u ∧ PushesAtMost s.cfg.prompt.length s u := by
  cases hp : s.dp.pending with
  | true => exact ⟨_, exec_cmdDone_of_pending hp, pushes_finishCommand s⟩
  | false => exact ⟨_, exec_cmdDone_of_idle hp, .of_tx_eq rfl⟩

end Sys2Proof.Machine

open Sys2Proof Sys2Proof.Machine

/-- Settles O59: row by row, the length of the string that the action emits. -/
theorem emissionsStayInTheirBounds : Obligations.EmissionsStayInTheirBounds := by
  intro s t b hinv
  obtain ⟨_, htab, htabPushes⟩ := exists_exec_tab_pushes hinv.legal
  obtain ⟨_, hdone, hdonePushes⟩ := exists_exec_cmdDone_pushes s
  exact ⟨fun h => h.elim (PushesAtMost.of_exec rfl (pushes_actHistPrev hinv.leInv))
      (PushesAtMost.of_exec rfl (pushes_actHistNext hinv.leInv)),
    fun hroom => PushesAtMost.of_exec (exec_leInsert_of_room b hroom) (pushes_insertByte hinv.leInv hroom b),
    PushesAtMost.of_exec rfl (pushes_actBackspace hinv.leInv),
    PushesAtMost.of_exec rfl (pushes_actEnter s),
    fun hfull => PushesAtMost.of_exec (exec_leOverflow_of_full b hfull) (.of_emit rfl List.length_append.le),
    PushesAtMost.of_exec htab htabPushes, PushesAtMost.of_exec hdone hdonePushes⟩

end
